-- ==== Sys2Proof/Word.lean ====
section
/-! DEFINITION. The word types of the converter: bytes of DST, samples of SRC, command and status words. -/

namespace Sys2Proof

/-- One byte of the destination space DST (20_memory.md R52). -/
abbrev Byte := BitVec 8

/-- One 16-bit unsigned sample of the source space SRC (20_memory.md R50). -/
abbrev Sample := BitVec 16

/-- A 32-bit register value or command word (10_state.md R21, 30_encoding.md R80). -/
abbrev Word := BitVec 32

end Sys2Proof
end

