-- ==== Sys2Proof/Config.lean ====
section
/-! DEFINITION. The configuration parameters (00_scope.md R6): those with a normative value are a record that State holds; what
the spec leaves open, the OPEN parameters and the free values, are opaque constants, so that nothing can be proved of them. -/

namespace Sys2Proof

/-- The additive offsets `(OY, OU, OV)` of 43_color_converter.md R141. -/
structure YuvOffset where
  oy : Int
  ou : Int
  ov : Int
deriving DecidableEq, Repr

/-- The parameters of a converter that have a normative value (00_scope.md R6, 92_eei_decisions.md D19, D21): fixed for the
converter, read by the two YUV formats, and written by nothing (log 8). -/
structure Parameters where
  /-- `YUV_OFFSET` (R6, R141). -/
  yuvOffset : YuvOffset
  /-- `YUV10_SHIFT` (92 D19): by how much an 8-bit value is shifted left in its 10-bit field, 0 to 2 (log 8). -/
  yuv10Shift : Fin 3
deriving DecidableEq, Repr

/-- The normative values: `YUV_OFFSET = (0, 0, 0)` (R6) and `YUV10_SHIFT = 0` (92 D19). -/
def Parameters.normative : Parameters := ⟨⟨0, 0, 0⟩, 0⟩

end Sys2Proof

namespace Sys2Proof.Config

/-- OPEN (R6, 92 section 7): chooses `YUVA10_GROUP_PIXELS`, an even number. `yuva10GroupPixels` of Machine/Descriptor.lean
is made from it and reaches exactly the values the constraints of R6 allow (log 7). -/
opaque yuva10PixelPairs : Fin 34

/-- OPEN (R6, 92 section 7): chooses `YUVA10_GROUP_BYTES` within its constraints (`yuva10GroupBytes`, log 7). -/
opaque yuva10SpareBytes : Nat

/-- OPEN (R6): samples the platform's source buffer can hold. No rule and no definition uses it (log 17). -/
opaque srcCapacity : Nat

/-- OPEN (R6): bytes the platform's destination buffer can hold. No rule and no definition uses it (log 17). -/
opaque dstCapacity : Nat

/-- OPEN (R6, R232): one less than `N_WORKERS`. Unobservable; no definition uses it (log 17). -/
opaque extraWorkers : Nat

/-- Free value: the byte at DST address `address` made unspecified as number `id` (60_exceptions.md R216,
70_reset_and_hazards.md R242, R246; log 6, log 10). -/
opaque freeByte (id address : Nat) : Byte

/-- Free value: which of the values a changed sample has had one use of it sees, when the host wrote the sample while the
command runs (70_reset_and_hazards.md R247; log 9). -/
opaque freeUse (id address use index : Nat) : Nat

/-- Free value: whether a result register read while BUSY = 1 already holds its new value (70_reset_and_hazards.md R249;
log 11). -/
opaque freeEarly (id : Nat) : Bool

end Sys2Proof.Config
end

