-- ==== Sys2Proof/Machine/Bits.lean ====
section
/-! DEFINITION. The integer and byte-sequence notation of 00_scope.md R7 to R9. -/

namespace Sys2Proof.Machine

/-- `ceil(a / b)` for `b > 0`, equal to `floor((a + b - 1) / b)` (R7). -/
def ceilDiv (a b : Nat) : Nat := (a + b - 1) / b

/-- `v[hi:lo] = floor(v / 2^lo) mod 2^(hi-lo+1)` (R8). -/
def bits (v hi lo : Nat) : Nat := v / 2 ^ lo % 2 ^ (hi - lo + 1)

/-- The byte `v[7:0]`. -/
def byteOf (v : Nat) : Byte := BitVec.ofNat 8 v

/-- `be32(w)`: most significant byte first (R9). -/
def be32 (w : Nat) : List Byte :=
  [byteOf (bits w 31 24), byteOf (bits w 23 16), byteOf (bits w 15 8), byteOf (bits w 7 0)]

/-- `le32(w)`: least significant byte first (R9). -/
def le32 (w : Nat) : List Byte :=
  [byteOf (bits w 7 0), byteOf (bits w 15 8), byteOf (bits w 23 16), byteOf (bits w 31 24)]

/-- `clamp(v, lo, hi)` (R7). -/
def clamp (v lo hi : Int) : Int := if v < lo then lo else if v > hi then hi else v

/-- `v >> n` on a possibly negative integer: the arithmetic shift `floor(v / 2^n)` (R7, 43_color_converter.md R142). -/
def arithShift (v : Int) (n : Nat) : Int := v / 2 ^ n

end Sys2Proof.Machine
end

