-- ==== Sys2Proof/Machine/Color.lean ====
section
/-! DEFINITION. The Precision Rescaler (42_precision_rescaler.md R130) and the Color Space Converter
(43_color_converter.md R141). -/

namespace Sys2Proof.Machine

/-- `rescale(s, N) = floor(s × (2^N − 1) / 65535)` (R130). -/
def rescale (s : Sample) (n : Nat) : Nat := s.toNat * (2 ^ n - 1) / 65535

/-- A pixel's luma and chroma, each 0 to 255. -/
structure Yuv where
  y : Nat
  u : Nat
  v : Nat
deriving DecidableEq, Repr

/-- `rgbToYuv(r, g, b)` with the offsets `o` (R141 to R143). -/
def rgbToYuv (o : YuvOffset) (r g b : Nat) : Yuv :=
  let sy : Int := 66 * r + 129 * g + 25 * b + 128
  let su : Int := -38 * r - 74 * g + 112 * b + 128
  let sv : Int := 112 * r - 94 * g - 18 * b + 128
  { y := (clamp (arithShift sy 8 + o.oy) 0 255).toNat
    u := (clamp (arithShift su 8 + o.ou) 0 255).toNat
    v := (clamp (arithShift sv 8 + o.ov) 0 255).toNat }

end Sys2Proof.Machine
end

