-- ==== Sys2Proof/Machine/Packer.lean ====
section
/-! DEFINITION. The Bit Packer (44_bit_packer.md R150 to R167): per implemented tag, the bytes of one group. -/

namespace Sys2Proof.Machine

/-- A Pixel Sample (00_scope.md R14). -/
structure Pixel where
  r : Sample
  g : Sample
  b : Sample
deriving DecidableEq, Repr

/-- The slots of a group (R151): slot `k` as seen by use `u`, none when absent. Every use of a present slot gives the same
pixel unless the host changes SRC while the command runs (70_reset_and_hazards.md R247). -/
abbrev Slots := Nat → Nat → Option Pixel

/-- The red component of a slot at depth `n`, 0 when absent (R152). -/
def redAt (n : Nat) : Option Pixel → Nat
  | some p => rescale p.r n
  | none => 0

/-- The green component of a slot at depth `n`, 0 when absent (R152). -/
def greenAt (n : Nat) : Option Pixel → Nat
  | some p => rescale p.g n
  | none => 0

/-- The blue component of a slot at depth `n`, 0 when absent (R152). -/
def blueAt (n : Nat) : Option Pixel → Nat
  | some p => rescale p.b n
  | none => 0

/-- The constant alpha (R164). -/
def alpha : Byte := 255

/-- RGB8 (R153). -/
def packGroupRgb8 (sl : Slots) : List Byte :=
  [byteOf (redAt 8 (sl 0 0)), byteOf (greenAt 8 (sl 0 0)), byteOf (blueAt 8 (sl 0 0))]

/-- ARGB8 (R154). -/
def packGroupArgb8 (sl : Slots) : List Byte :=
  [alpha, byteOf (redAt 8 (sl 0 0)), byteOf (greenAt 8 (sl 0 0)), byteOf (blueAt 8 (sl 0 0))]

/-- BGRA8 (R155). -/
def packGroupBgra8 (sl : Slots) : List Byte :=
  [byteOf (blueAt 8 (sl 0 0)), byteOf (greenAt 8 (sl 0 0)), byteOf (redAt 8 (sl 0 0)), alpha]

/-- The word of an RGB10 pixel: R 29:20, G 19:10, B 9:0 (R156, 92 D15). -/
def rgb10Word (r g b : Nat) : Nat := (r <<< 20) ||| (g <<< 10) ||| b

/-- RGB10 (R156). -/
def packGroupRgb10 (sl : Slots) : List Byte :=
  be32 (rgb10Word (redAt 10 (sl 0 0)) (greenAt 10 (sl 0 0)) (blueAt 10 (sl 0 0)))

/-- RGB12_BE: the 72-bit number with `c0` on top, most significant byte first (R157, R158). -/
def packGroupRgb12Be (sl : Slots) : List Byte :=
  let v := (redAt 12 (sl 0 0) <<< 60) ||| (greenAt 12 (sl 0 0) <<< 48) ||| (blueAt 12 (sl 0 0) <<< 36)
    ||| (redAt 12 (sl 1 0) <<< 24) ||| (greenAt 12 (sl 1 0) <<< 12) ||| blueAt 12 (sl 1 0)
  [byteOf (bits v 71 64), byteOf (bits v 63 56), byteOf (bits v 55 48), byteOf (bits v 47 40), byteOf (bits v 39 32),
    byteOf (bits v 31 24), byteOf (bits v 23 16), byteOf (bits v 15 8), byteOf (bits v 7 0)]

/-- RGB12_LE: the 72-bit number with `c0` at the bottom, least significant byte first (R157, R159). -/
def packGroupRgb12Le (sl : Slots) : List Byte :=
  let v := redAt 12 (sl 0 0) ||| (greenAt 12 (sl 0 0) <<< 12) ||| (blueAt 12 (sl 0 0) <<< 24)
    ||| (redAt 12 (sl 1 0) <<< 36) ||| (greenAt 12 (sl 1 0) <<< 48) ||| (blueAt 12 (sl 1 0) <<< 60)
  [byteOf (bits v 7 0), byteOf (bits v 15 8), byteOf (bits v 23 16), byteOf (bits v 31 24), byteOf (bits v 39 32),
    byteOf (bits v 47 40), byteOf (bits v 55 48), byteOf (bits v 63 56), byteOf (bits v 71 64)]

/-- The YUV values of a present pixel: the matrix on the 8-bit components (43_color_converter.md R140, R146). -/
def pixelYuv (o : YuvOffset) (p : Pixel) : Yuv := rgbToYuv o (rescale p.r 8) (rescale p.g 8) (rescale p.b 8)

/-- Luma of slot `k`, 0 when absent (R152, R161). -/
def lumaAt (o : YuvOffset) (sl : Slots) (k : Nat) : Nat :=
  match sl k 0 with
  | some p => (pixelYuv o p).y
  | none => 0

/-- U of slot `k`, 0 when absent (R152, R161). -/
def chromaUAt (o : YuvOffset) (sl : Slots) (k : Nat) : Nat :=
  match sl k 1 with
  | some p => (pixelYuv o p).u
  | none => 0

/-- V of slot `k`, 0 when absent (R152, R161). -/
def chromaVAt (o : YuvOffset) (sl : Slots) (k : Nat) : Nat :=
  match sl k 2 with
  | some p => (pixelYuv o p).v
  | none => 0

/-- YUV8_422: U and V both from the first slot of the pair (R161, R162, 92 D17). -/
def packGroupYuv8_422 (c : Parameters) (sl : Slots) : List Byte :=
  let o := c.yuvOffset
  [byteOf (chromaUAt o sl 0), byteOf (lumaAt o sl 0), byteOf (chromaVAt o sl 0), byteOf (lumaAt o sl 1)]

/-- A word of three 10-bit fields, the first lowest (R163); an 8-bit value enters its field shifted left by `YUV10_SHIFT`, which
is 0 unless the converter is configured otherwise (R146, 92 D19). -/
def yuv10Word (shift p q r : Nat) : Nat := (p <<< shift) ||| ((q <<< shift) <<< 10) ||| ((r <<< shift) <<< 20)

/-- YUV10_422: four little-endian words of three fields each (R163). -/
def packGroupYuv10_422 (c : Parameters) (sl : Slots) : List Byte :=
  let o := c.yuvOffset
  let word := yuv10Word c.yuv10Shift.val
  le32 (word (chromaUAt o sl 0) (lumaAt o sl 0) (chromaVAt o sl 0))
    ++ le32 (word (lumaAt o sl 1) (chromaUAt o sl 2) (lumaAt o sl 2))
    ++ le32 (word (chromaVAt o sl 2) (lumaAt o sl 3) (chromaUAt o sl 4))
    ++ le32 (word (lumaAt o sl 4) (chromaVAt o sl 4) (lumaAt o sl 5))

end Sys2Proof.Machine
end

