-- ==== Sys2Proof/Syntax.lean ====
section
/-! DEFINITION. The command set (00_scope.md R2, 30_encoding.md R86): one constructor per row of the opcode table. -/

namespace Sys2Proof

/-- The eleven registered Pixel Format Tags (30_encoding.md R82). -/
inductive Tag where
  | rgb8 | argb8 | bgra8 | rgb10 | rgb12Be | rgb12Le | yuv8_422 | yuv10_422 | rgb10xBe | rgb10xLe | yuva10_422
deriving DecidableEq, Repr

/-- A command. DESCRIBE and STRIDE take the tag code as a field (0 to 255, R86); every PACK row is an instruction of its
own (R86). All other inputs are in the operand registers (R83). -/
inductive Instr where
  | describe (tag : Nat)
  | stride (tag : Nat)
  | packRgb8
  | packArgb8
  | packBgra8
  | packRgb10
  | packRgb12Be
  | packRgb12Le
  | packYuv8_422
  | packYuv10_422
  | packRgb10xBe
  | packRgb10xLe
  | packYuva10_422
deriving DecidableEq, Repr

end Sys2Proof
end

