-- ==== Sys2Proof/WellFormed.lean ====
section
/-! DEFINITION. Which terms of `Instr` a command word can hold. -/

namespace Sys2Proof

/-- The tag operand is `CMD.TAG`, eight bits: 0 to 255 (30_encoding.md R80, R83). -/
def Instr.wellFormed : Instr → Bool
  | .describe tag => decide (tag < 256)
  | .stride tag => decide (tag < 256)
  | .packRgb8 => true
  | .packArgb8 => true
  | .packBgra8 => true
  | .packRgb10 => true
  | .packRgb12Be => true
  | .packRgb12Le => true
  | .packYuv8_422 => true
  | .packYuv10_422 => true
  | .packRgb10xBe => true
  | .packRgb10xLe => true
  | .packYuva10_422 => true

end Sys2Proof
end

