-- ==== Sys2Proof/Decode.lean ====
section
/-! DEFINITION. Decoding a command word (30_encoding.md R80 to R89), the encoder, and the opcode table of R86. -/

namespace Sys2Proof

/-- Why a command word is no command of the table: the three classes of 30_encoding.md R87. -/
inductive Reject where
  /-- `c[31:10] ≠ 0`. Completes with IllegalCommand. -/
  | reservedBits
  /-- `c[9:8] = 3`. Completes with IllegalCommand. -/
  | reservedOperation
  /-- PACK of a tag code 11 to 255. Completes with UnsupportedFormat. -/
  | packUnregisteredTag
deriving DecidableEq, Repr

/-- What a command word stands for. -/
inductive Decoded where
  | instr (i : Instr)
  | reject (r : Reject)
deriving DecidableEq, Repr

/-- The field ZERO, bits 31:10 (R80). -/
def zeroField (c : Word) : BitVec 22 := c.extractLsb' 10 22

/-- The field OP, bits 9:8 (R80). -/
def opField (c : Word) : BitVec 2 := c.extractLsb' 8 2

/-- The field TAG, bits 7:0 (R80). -/
def tagField (c : Word) : BitVec 8 := c.extractLsb' 0 8

/-- The PACK rows of the table by tag code (R82, R86). -/
def decodePack (tag : Nat) : Decoded :=
  match tag with
  | 0 => .instr .packRgb8
  | 1 => .instr .packArgb8
  | 2 => .instr .packBgra8
  | 3 => .instr .packRgb10
  | 4 => .instr .packRgb12Be
  | 5 => .instr .packRgb12Le
  | 6 => .instr .packYuv8_422
  | 7 => .instr .packYuv10_422
  | 8 => .instr .packRgb10xBe
  | 9 => .instr .packRgb10xLe
  | 10 => .instr .packYuva10_422
  | _ => .reject .packUnregisteredTag

/-- Decode, in the order of R85: "the first line that applies decides". -/
def decode (c : Word) : Decoded :=
  if zeroField c ≠ 0 then .reject .reservedBits
  else if opField c = 3 then .reject .reservedOperation
  else if opField c = 0 then .instr (.describe (tagField c).toNat)
  else if opField c = 1 then .instr (.stride (tagField c).toNat)
  else decodePack (tagField c).toNat

/-- A command word from its fields, most significant first (R80). -/
def commandWord (op : BitVec 2) (tag : BitVec 8) : Word := 0#22 ++ op ++ tag

/-- The word of a command (R81, R82). -/
def encode : Instr → Word
  | .describe tag => commandWord 0 (BitVec.ofNat 8 tag)
  | .stride tag => commandWord 1 (BitVec.ofNat 8 tag)
  | .packRgb8 => commandWord 2 0
  | .packArgb8 => commandWord 2 1
  | .packBgra8 => commandWord 2 2
  | .packRgb10 => commandWord 2 3
  | .packRgb12Be => commandWord 2 4
  | .packRgb12Le => commandWord 2 5
  | .packYuv8_422 => commandWord 2 6
  | .packYuv10_422 => commandWord 2 7
  | .packRgb10xBe => commandWord 2 8
  | .packRgb10xLe => commandWord 2 9
  | .packYuva10_422 => commandWord 2 10

/-- A row of R86: a word `c` selects it when `c & mask == pattern`. -/
structure OpcodeRow where
  pattern : Word
  mask : Word
deriving DecidableEq, Repr

/-- The row of a command (R86), written from the rule's own columns. -/
def opcodeRow : Instr → OpcodeRow
  | .describe _ => ⟨0x00000000, 0xFFFFFF00⟩
  | .stride _ => ⟨0x00000100, 0xFFFFFF00⟩
  | .packRgb8 => ⟨0x00000200, 0xFFFFFFFF⟩
  | .packArgb8 => ⟨0x00000201, 0xFFFFFFFF⟩
  | .packBgra8 => ⟨0x00000202, 0xFFFFFFFF⟩
  | .packRgb10 => ⟨0x00000203, 0xFFFFFFFF⟩
  | .packRgb12Be => ⟨0x00000204, 0xFFFFFFFF⟩
  | .packRgb12Le => ⟨0x00000205, 0xFFFFFFFF⟩
  | .packYuv8_422 => ⟨0x00000206, 0xFFFFFFFF⟩
  | .packYuv10_422 => ⟨0x00000207, 0xFFFFFFFF⟩
  | .packRgb10xBe => ⟨0x00000208, 0xFFFFFFFF⟩
  | .packRgb10xLe => ⟨0x00000209, 0xFFFFFFFF⟩
  | .packYuva10_422 => ⟨0x0000020A, 0xFFFFFFFF⟩

/-- The thirteen rows (R86). -/
def opcodeTable : List OpcodeRow :=
  [.describe 0, .stride 0, .packRgb8, .packArgb8, .packBgra8, .packRgb10, .packRgb12Be, .packRgb12Le, .packYuv8_422,
    .packYuv10_422, .packRgb10xBe, .packRgb10xLe, .packYuva10_422].map opcodeRow

/-- `c & mask == match` (R86). -/
def OpcodeRow.selects (r : OpcodeRow) (c : Word) : Bool := c &&& r.mask == r.pattern

/-- The host's reading of a table word: every command is the one 32-bit word of its row (R80, R89). -/
def decodeTableWord (nbits w : Nat) : Option Instr :=
  match decode (BitVec.ofNat 32 (w % 2 ^ nbits)) with
  | .instr i => some i
  | .reject _ => none

end Sys2Proof
end

