-- ==== Sys2Proof/Machine/State.lean ====
section
/-! DEFINITION. The state of the converter: the ten registers of 10_state.md R21, the spaces SRC and DST of R33, and the
model's own fields for what the outside world does (log 1, log 14) and for free values (log 6, log 9, log 10). -/

namespace Sys2Proof.Machine

/-- The errors of 60_exceptions.md R210 (code 0, OK, is no error). -/
inductive ErrorCode where
  | unsupportedFormat | invalidDimension | bufferTooSmall | sourceSizeMismatch | illegalCommand
deriving DecidableEq, Repr

/-- Whether a failed command was a PACK, which leaves DST below DST_LEN unspecified, or not (R216). -/
inductive CommandKind where
  | pack | other
deriving DecidableEq, Repr

/-- The ten registers (10_state.md R21). -/
inductive Reg where
  | cmd | status | width | height | rowStride | srcLen | dstLen | result | desc | descName
deriving DecidableEq, Repr

/-- What the host can do (30_encoding.md R90, R91; 70_reset_and_hazards.md R243, R252). -/
inductive HostAction where
  /-- Write `value` to the register at byte offset `offset`; at 0x00 this starts a command (R84). -/
  | writeReg (offset : Nat) (value : BitVec 128)
  /-- Read the register at byte offset `offset` (R21). -/
  | readReg (offset : Nat)
  /-- Store a sample in the source buffer (R252). -/
  | writeSrc (index : Nat) (value : Sample)
  /-- Read a sample of the source buffer (R252). -/
  | readSrc (index : Nat)
  /-- Store a byte in the destination buffer (R252). -/
  | writeDst (address : Nat) (value : Byte)
  /-- Read a byte of the destination buffer (R252). -/
  | readDst (address : Nat)
  /-- Read STATUS until DONE = 1 (R90, R243 step 5). -/
  | pollDone
  /-- Write the value last read, times `factor`, to the register at `offset`: the host arithmetic of PACKMIN (R91). -/
  | writeBack (offset factor : Nat)
  /-- Leave out the next `count` events when STATUS.ERR = 1: "on error stop here with that error" (R91). -/
  | skipOnError (count : Nat)
deriving DecidableEq, Repr

/-- One event: an action of the host, the converter's turn to work on its command, or the reset input (R20, R240). -/
inductive Event where
  | host (action : HostAction)
  | converter
  | reset
deriving DecidableEq, Repr

/-- DST addresses `lo` to `hi - 1`, made unspecified as number `id` (R216, R242, R246). -/
structure Lost where
  lo : Nat
  hi : Nat
  id : Nat
deriving DecidableEq, Repr

/-- The destination space DST (20_memory.md R52): the bytes listed, and the ranges made unspecified, newest first. A listed
byte is newer than every range that covers its address. -/
structure Memory where
  cells : List Host.Cell
  lost : List Lost
deriving DecidableEq, Repr

/-- The source space SRC (20_memory.md R50): the samples listed, by index. -/
abbrev Samples := List (Nat × Sample)

/-- What the host did to the buffers while BUSY = 1 (70_reset_and_hazards.md R246, R247). -/
structure Hazards where
  /-- Samples written while BUSY = 1, each with a value it had before. -/
  stale : List (Nat × Sample)
  /-- DST addresses written while BUSY = 1. -/
  touched : List Nat
deriving DecidableEq, Repr

/-- The host kept its hands off SRC and DST. -/
def Hazards.none : Hazards := ⟨[], []⟩

structure State where
  /-- The configuration parameters with a normative value (00_scope.md R6): nothing writes them (log 8). -/
  params : Parameters
  /-- CMD (R27). -/
  cmd : Word
  /-- STATUS (R28); its fields are read by the accessors of Machine/Flags.lean. -/
  status : Word
  /-- WIDTH, signed (R23). -/
  width : Word
  /-- HEIGHT, signed (R23). -/
  height : Word
  /-- ROW_STRIDE (R24). -/
  rowStride : BitVec 64
  /-- SRC_LEN (R24). -/
  srcLen : BitVec 64
  /-- DST_LEN (R24). -/
  dstLen : BitVec 64
  /-- RESULT (R29). -/
  result : BitVec 64
  /-- DESC (R30). -/
  desc : Word
  /-- DESC_NAME (R31). -/
  descName : BitVec 128
  /-- SRC (R50). -/
  src : Samples
  /-- DST (R52). -/
  dst : Memory
  /-- Host writes to SRC and DST while the running command runs (R246, R247). -/
  hazards : Hazards
  /-- The model's own: what happens next, oldest first (log 1). -/
  pending : List Event
  /-- The model's own: what the host's last read returned (log 14). -/
  readData : BitVec 128
  /-- The model's own: numbers the free values (log 6). -/
  tick : Nat
deriving DecidableEq, Repr

/-- Why the machine stops with a fault: it never does. The converter has no trap, an error of a command is a completion
(60_exceptions.md R216, R220), and a host action faults nowhere; so no fault exists. -/
inductive Fault where
deriving DecidableEq, Repr

/-- What the model gives no meaning to. -/
inductive Refusal where
  /-- Raised by `exec` for an instruction without a meaning yet. Safe. No arm of `exec` raises it. -/
  | notModelled (mnemonic : String)
  /-- Raised by `step` for a host access at an offset inside a register and not at its start: "How a narrower bus splits an
  access is outside this spec" (10_state.md R21). Safe (log 12). -/
  | partialRegisterAccess (offset : Nat)
deriving DecidableEq, Repr

/-- After reset every register reads 0 (10_state.md R36, 70_reset_and_hazards.md R241). The parameters have their normative
values (00_scope.md R6, log 8). SRC and DST list nothing (log 5); the model's own fields are empty or 0 (log 1, log 6, log 14). -/
def State.reset : State where
  params := .normative
  cmd := 0
  status := 0
  width := 0
  height := 0
  rowStride := 0
  srcLen := 0
  dstLen := 0
  result := 0
  desc := 0
  descName := 0
  src := []
  dst := ⟨[], []⟩
  hazards := .none
  pending := []
  readData := 0
  tick := 0

end Sys2Proof.Machine
end

