-- ==== Sys2Proof/Machine/Flags.lean ====
section
/-! DEFINITION. STATUS, the converter's only flags (10_state.md R28), and the completion codes (60_exceptions.md R210). -/

namespace Sys2Proof.Machine

/-- The code numbers of R210. -/
def ErrorCode.code : ErrorCode → BitVec 4
  | .unsupportedFormat => 1
  | .invalidDimension => 2
  | .bufferTooSmall => 3
  | .sourceSizeMismatch => 4
  | .illegalCommand => 5

/-- STATUS from its fields: CODE 7:4, ERR 2, DONE 1, BUSY 0, reserved bits 0 (R28). -/
def statusWord (busy done err : Bool) (code : BitVec 4) : Word :=
  0#24 ++ code ++ 0#1 ++ BitVec.ofBool err ++ BitVec.ofBool done ++ BitVec.ofBool busy

/-- STATUS while a command runs: BUSY alone (30_encoding.md R84). -/
def statusStarted : Word := statusWord true false false 0

/-- STATUS after a successful completion, 0x02 (60_exceptions.md R215). -/
def statusOk : Word := statusWord false true false 0

/-- STATUS after an error completion, `0x06 | (code << 4)` (60_exceptions.md R216). -/
def statusError (e : ErrorCode) : Word := statusWord false true true e.code

/-- STATUS.BUSY: a command is executing (R28). -/
def State.busy (s : State) : Bool := s.status.getLsbD 0

/-- STATUS.DONE: the last started command has completed (R28). -/
def State.done (s : State) : Bool := s.status.getLsbD 1

/-- STATUS.ERR: the last completed command failed (R28). -/
def State.err (s : State) : Bool := s.status.getLsbD 2

/-- STATUS.CODE: the completion code (R28). -/
def State.code (s : State) : BitVec 4 := s.status.extractLsb' 4 4

end Sys2Proof.Machine
end

