-- ==== Sys2Proof/Machine/Operands.lean ====
section
/-! DEFINITION. Where operands come from: the operand registers (30_encoding.md R83), the register map (10_state.md R21),
and the two addressing modes of 20_memory.md R51 and R53. -/

namespace Sys2Proof.Machine

/-- `x[WIDTH]`, signed (R83). -/
def State.opWidth (s : State) : Int := s.width.toInt

/-- `x[HEIGHT]`, signed (R83). -/
def State.opHeight (s : State) : Int := s.height.toInt

/-- `x[ROW_STRIDE]`, unsigned (R83). -/
def State.opRowStride (s : State) : Nat := s.rowStride.toNat

/-- `x[SRC_LEN]`, unsigned (R83). -/
def State.opSrcLen (s : State) : Nat := s.srcLen.toNat

/-- `x[DST_LEN]`, unsigned (R83). -/
def State.opDstLen (s : State) : Nat := s.dstLen.toNat

/-- The SRC index of channel `c` of the pixel in row `y`, column `x` of a frame `w` pixels wide (R13, R51). -/
def sampleIndex (w y x c : Nat) : Nat := (y * w + x) * 3 + c

/-- The DST address of the first byte of group `g` of row `y` (R53). -/
def groupAddress (rowStride groupBytes y g : Nat) : Nat := y * rowStride + g * groupBytes

/-- What stands at a byte offset of the register block. -/
inductive RegSlot where
  /-- The register that starts there. -/
  | reg (r : Reg)
  /-- No register: reads 0, ignores writes. -/
  | hole
  /-- A later byte of a register. -/
  | inside
deriving DecidableEq, Repr

/-- The register map (R21): offsets 0x34 to 0x3F and 0x50 upward are not registers. -/
def regSlot (offset : Nat) : RegSlot :=
  if offset = 0x00 then .reg .cmd
  else if offset = 0x04 then .reg .status
  else if offset = 0x08 then .reg .width
  else if offset = 0x0C then .reg .height
  else if offset = 0x10 then .reg .rowStride
  else if offset = 0x18 then .reg .srcLen
  else if offset = 0x20 then .reg .dstLen
  else if offset = 0x28 then .reg .result
  else if offset = 0x30 then .reg .desc
  else if offset = 0x40 then .reg .descName
  else if 0x34 ≤ offset ∧ offset < 0x40 then .hole
  else if 0x50 ≤ offset then .hole
  else .inside

/-- The byte offset of a register (R21). -/
def Reg.offset : Reg → Nat
  | .cmd => 0x00
  | .status => 0x04
  | .width => 0x08
  | .height => 0x0C
  | .rowStride => 0x10
  | .srcLen => 0x18
  | .dstLen => 0x20
  | .result => 0x28
  | .desc => 0x30
  | .descName => 0x40

/-- What a host read of a register returns (R21), as one value of 128 bits. -/
def State.regValue (s : State) : Reg → BitVec 128
  | .cmd => s.cmd.setWidth 128
  | .status => s.status.setWidth 128
  | .width => s.width.setWidth 128
  | .height => s.height.setWidth 128
  | .rowStride => s.rowStride.setWidth 128
  | .srcLen => s.srcLen.setWidth 128
  | .dstLen => s.dstLen.setWidth 128
  | .result => s.result.setWidth 128
  | .desc => s.desc.setWidth 128
  | .descName => s.descName

end Sys2Proof.Machine
end

