-- ==== Sys2Proof/Machine/Ops.lean ====
section
/-! DEFINITION. The operations over SRC and DST, and the start, the completions and the reset of a command. -/

namespace Sys2Proof.Machine

/-! ## Lists of address and value pairs -/

/-- The value listed for `a`, the first one if several are. -/
def Sparse.lookup {α : Type} : List (Nat × α) → Nat → Option α
  | [], _ => none
  | (b, x) :: t, a => if b = a then some x else Sparse.lookup t a

/-- List `v` for `a`, in its place by address. -/
def Sparse.insert {α : Type} (a : Nat) (v : α) : List (Nat × α) → List (Nat × α)
  | [] => [(a, v)]
  | (b, x) :: t =>
    if a < b then (a, v) :: (b, x) :: t
    else if a = b then (a, v) :: t
    else (b, x) :: Sparse.insert a v t

/-- List nothing for `a`. -/
def Sparse.erase {α : Type} (a : Nat) (l : List (Nat × α)) : List (Nat × α) := l.filter (fun c => c.1 != a)

/-- The addresses rise strictly. -/
def Sparse.rising {α : Type} : List (Nat × α) → Bool
  | [] => true
  | c :: t => t.all (fun d => decide (c.1 < d.1)) && Sparse.rising t

/-! ## SRC -/

/-- What a sample nothing has written reads as. DESIGN CHOICE (log 5): the spec gives SRC to the host. -/
def unwrittenSample : Sample := 0

/-- `MemRead(i, 1)` (00_scope.md R11, 20_memory.md R50). -/
def Samples.read (m : Samples) (i : Nat) : Sample := (Sparse.lookup m i).getD unwrittenSample

/-- A host write of one sample. -/
def Samples.write (m : Samples) (i : Nat) (v : Sample) : Samples :=
  if v = unwrittenSample then Sparse.erase i m else Sparse.insert i v m

/-- The canonical form: indices strictly rising, no entry equal to what an unlisted index reads as. -/
def Samples.wf (m : Samples) : Bool := Sparse.rising m && m.all (fun c => c.2 != unwrittenSample)

/-! ## DST -/

/-- What a byte nothing has written reads as. DESIGN CHOICE (log 5): the spec gives DST to the host. -/
def unwrittenByte : Byte := 0

/-- The range holds `a`. -/
def Lost.covers (r : Lost) (a : Nat) : Bool := decide (r.lo ≤ a ∧ a < r.hi)

/-- Some unspecified range holds `a`. -/
def Memory.covered (m : Memory) (a : Nat) : Bool := m.lost.any (fun r => r.covers a)

/-- What an unlisted address reads as: the free byte of the newest range that holds it, else the unwritten byte (log 5,
log 6). -/
def Memory.unlisted (m : Memory) (a : Nat) : Byte :=
  match m.lost.find? (fun r => r.covers a) with
  | some r => Config.freeByte r.id a
  | none => unwrittenByte

/-- The byte at `a`. The converter never reads DST (20_memory.md R52); the host does. -/
def Memory.read (m : Memory) (a : Nat) : Byte :=
  match Sparse.lookup m.cells a with
  | some b => b
  | none => m.unlisted a

/-- Store one byte (20_memory.md R60). A byte in an unspecified range is listed whatever its value, since a free byte has
none to compare it with (log 6). -/
def Memory.write (m : Memory) (a : Nat) (v : Byte) : Memory :=
  if !m.covered a && v == unwrittenByte then { m with cells := Sparse.erase a m.cells }
  else { m with cells := Sparse.insert a v m.cells }

/-- `MemWrite(a, n, v)`: the bytes of `v` at `a`, `a + 1`, … (00_scope.md R11). -/
def Memory.writeBytes (m : Memory) (a : Nat) : List Byte → Memory
  | [] => m
  | b :: bs => (Memory.writeBytes m (a + 1) bs).write a b

/-- Every byte at addresses `lo` to `hi - 1` becomes unspecified, as number `id` (60_exceptions.md R216). -/
def Memory.lose (m : Memory) (lo hi id : Nat) : Memory :=
  if lo < hi then
    { cells := m.cells.filter (fun c => !decide (lo ≤ c.1 ∧ c.1 < hi))
      lost := ⟨lo, hi, id⟩ :: m.lost.filter (fun r => !decide (lo ≤ r.lo ∧ r.hi ≤ hi)) }
  else m

/-- The canonical form: addresses strictly rising, no entry outside the unspecified ranges equal to the unwritten byte, no
empty range. -/
def Memory.wf (m : Memory) : Bool :=
  Sparse.rising m.cells && m.cells.all (fun c => m.covered c.1 || c.2 != unwrittenByte)
    && m.lost.all (fun r => decide (r.lo < r.hi))

/-! ## Starting and completing a command -/

/-- The word is a PACK: `CMD.OP = 2` and `CMD[31:10] = 0` (60_exceptions.md R216). -/
def isPackWord (c : Word) : Bool := zeroField c == 0 && opField c == 2

/-- Command start (30_encoding.md R84): CMD holds the word, STATUS reads BUSY alone. The operands are sampled by leaving the
operand registers alone, which nothing can write while BUSY = 1 (log 4). -/
def State.start (s : State) (c : Word) : State := { s with cmd := c, status := statusStarted, hazards := .none }

/-- Successful completion, `complete OK` (60_exceptions.md R215). -/
def State.completeOk (s : State) : State := { s with status := statusOk, hazards := .none, tick := s.tick + 1 }

/-- DST after a failed or interrupted command of kind `k`: unspecified below DST_LEN after a PACK, else unchanged
(60_exceptions.md R216, 70_reset_and_hazards.md R242). -/
def State.dstAfterFailure (s : State) (k : CommandKind) : Memory :=
  match k with
  | .pack => s.dst.lose 0 s.opDstLen s.tick
  | .other => s.dst

/-- Error completion, `raise e` (60_exceptions.md R216): the one way a command of this hardware takes an exception. STATUS
records the code; no handler, no saved state, and so nothing to return from (R220): the next start clears it. -/
def State.raise (s : State) (k : CommandKind) (e : ErrorCode) : State :=
  { s with status := statusError e, dst := s.dstAfterFailure k, hazards := .none, tick := s.tick + 1 }

/-- The reset input (10_state.md R36, 70_reset_and_hazards.md R240 to R242): every register 0, SRC untouched, DST untouched
unless a PACK is running. The parameters, the events still to come and the host's own data stay (log 19). -/
def State.applyReset (s : State) : State :=
  { State.reset with
    params := s.params
    src := s.src
    dst := if s.busy && isPackWord s.cmd then s.dstAfterFailure .pack else s.dst
    pending := s.pending
    readData := s.readData
    tick := s.tick + 1 }

end Sys2Proof.Machine
end

