-- ==== Sys2Proof/Machine/Descriptor.lean ====
section
/-! DEFINITION. The Format Descriptor Table (10_state.md R32, 40_descriptor_table.md R100 to R112) and DESCRIBE (R110). -/

namespace Sys2Proof.Machine

/-- Chroma subsampling (R100). -/
inductive Subsampling where
  | s444 | s422
deriving DecidableEq, Repr

/-- Byte order of a format (R100). -/
inductive Endian where
  | notApplicable | big | little | notStated
deriving DecidableEq, Repr

/-- Component order (R102). -/
inductive ComponentOrder where
  | rgb | argb | bgra | uyvy | yuvaNotStated
deriving DecidableEq, Repr

/-- A Format Descriptor (R100). -/
structure Descriptor where
  depth : Nat
  ncomp : Nat
  subsamp : Subsampling
  endian : Endian
  impl : Bool
  order : ComponentOrder
  groupPixels : Nat
  groupBytes : Nat
  name : List Char
deriving DecidableEq, Repr

/-- `YUVA10_GROUP_PIXELS`: OPEN, even (00_scope.md R6, log 7). -/
def yuva10GroupPixels : Nat := 2 * (Config.yuva10PixelPairs.val + 1)

/-- `YUVA10_GROUP_BYTES`: OPEN, at most 255 and at least 30 bits per pixel of the group (00_scope.md R6, log 7). -/
def yuva10GroupBytes : Nat :=
  let least := ceilDiv (30 * yuva10GroupPixels) 8
  least + Config.yuva10SpareBytes % (256 - least)

/-- `DescRead`: the rows of R104. -/
def descRead : Tag → Descriptor
  | .rgb8 => ⟨8, 3, .s444, .notApplicable, true, .rgb, 1, 3, ['R', 'G', 'B', '8']⟩
  | .argb8 => ⟨8, 4, .s444, .notApplicable, true, .argb, 1, 4, ['A', 'R', 'G', 'B', '8']⟩
  | .bgra8 => ⟨8, 4, .s444, .notApplicable, true, .bgra, 1, 4, ['B', 'G', 'R', 'A', '8']⟩
  | .rgb10 => ⟨10, 3, .s444, .big, true, .rgb, 1, 4, ['R', 'G', 'B', '1', '0']⟩
  | .rgb12Be => ⟨12, 3, .s444, .big, true, .rgb, 2, 9, ['R', 'G', 'B', '1', '2', '_', 'B', 'E']⟩
  | .rgb12Le => ⟨12, 3, .s444, .little, true, .rgb, 2, 9, ['R', 'G', 'B', '1', '2', '_', 'L', 'E']⟩
  | .yuv8_422 => ⟨8, 3, .s422, .notApplicable, true, .uyvy, 2, 4, ['Y', 'U', 'V', '8', '_', '4', '2', '2']⟩
  | .yuv10_422 => ⟨10, 3, .s422, .little, true, .uyvy, 6, 16, ['Y', 'U', 'V', '1', '0', '_', '4', '2', '2']⟩
  | .rgb10xBe => ⟨10, 3, .s444, .big, false, .rgb, 1, 4, ['R', 'G', 'B', '1', '0', 'X', '_', 'B', 'E']⟩
  | .rgb10xLe => ⟨10, 3, .s444, .little, false, .rgb, 1, 4, ['R', 'G', 'B', '1', '0', 'X', '_', 'L', 'E']⟩
  | .yuva10_422 =>
    ⟨10, 4, .s422, .notStated, false, .yuvaNotStated, yuva10GroupPixels, yuva10GroupBytes,
      ['Y', 'U', 'V', 'A', '1', '0', '_', '4', '2', '2']⟩

/-- The registered tag of a code, if the code is 0 to 10 (30_encoding.md R82). -/
def tagOfCode (t : Nat) : Option Tag :=
  match t with
  | 0 => some .rgb8
  | 1 => some .argb8
  | 2 => some .bgra8
  | 3 => some .rgb10
  | 4 => some .rgb12Be
  | 5 => some .rgb12Le
  | 6 => some .yuv8_422
  | 7 => some .yuv10_422
  | 8 => some .rgb10xBe
  | 9 => some .rgb10xLe
  | 10 => some .yuva10_422
  | _ => none

/-- `subsampCode` (R101). -/
def Subsampling.code : Subsampling → Nat
  | .s444 => 0
  | .s422 => 1

/-- `endianCode` (R101). -/
def Endian.code : Endian → Nat
  | .notApplicable => 0
  | .big => 1
  | .little => 2
  | .notStated => 3

/-- `orderCode` (R102). -/
def ComponentOrder.code : ComponentOrder → Nat
  | .rgb => 0
  | .argb => 1
  | .bgra => 2
  | .uyvy => 3
  | .yuvaNotStated => 4

/-- `encodeDesc(d)` (R101). -/
def encodeDesc (d : Descriptor) : Word :=
  BitVec.ofNat 32
    (d.depth ||| (d.ncomp <<< 4) ||| (d.subsamp.code <<< 7) ||| (d.endian.code <<< 8) ||| (d.impl.toNat <<< 10)
      ||| (d.order.code <<< 12) ||| (d.groupPixels <<< 16) ||| (d.groupBytes <<< 24))

/-- Characters as a number, the first in the least significant byte. -/
def nameValue : List Char → Nat
  | [] => 0
  | c :: cs => c.toNat + 256 * nameValue cs

/-- `encodeName(d)`: byte `k` is the ASCII code of character `k`, zero above the name (R103). -/
def encodeName (d : Descriptor) : BitVec 128 := BitVec.ofNat 128 (nameValue d.name)

/-- DESCRIBE (R110). -/
def execDescribe (t : Nat) (s : State) : Host.Outcome State Fault Refusal :=
  match tagOfCode t with
  | none => .next (s.raise .other .unsupportedFormat)
  | some tag =>
    .next ({ s with desc := encodeDesc (descRead tag), descName := encodeName (descRead tag) }).completeOk

end Sys2Proof.Machine
end

