-- ==== Sys2Proof/Machine/Stride.lean ====
section
/-! DEFINITION. The Row Stride Calculator (41_row_stride.md R120) and STRIDE (R122). -/

namespace Sys2Proof.Machine

/-- `minStride = ceil(W / GP) × GB` (R120); it is given the group size, not the tag (40_descriptor_table.md R113). -/
def minStride (groupPixels groupBytes w : Nat) : Nat := ceilDiv w groupPixels * groupBytes

/-- STRIDE (R122): UnsupportedFormat outranks InvalidDimension. -/
def execStride (t : Nat) (s : State) : Host.Outcome State Fault Refusal :=
  match tagOfCode t with
  | none => .next (s.raise .other .unsupportedFormat)
  | some tag =>
    if s.opWidth ≤ 0 then .next (s.raise .other .invalidDimension)
    else
      let d := descRead tag
      .next ({ s with result := BitVec.ofNat 64 (minStride d.groupPixels d.groupBytes s.opWidth.toNat) }).completeOk

end Sys2Proof.Machine
end

