-- ==== Sys2Proof/Machine/Pack.lean ====
section
/-! DEFINITION. The Format Dispatcher: the common frame of PACK (45_format_dispatcher.md R180 to R189) and the eleven PACK
commands (R190 to R200). -/

namespace Sys2Proof.Machine

/-- The checks of R180, in the priority of R185: the error PACK reports, or none. -/
def State.packCheck (s : State) (d : Descriptor) : Option ErrorCode :=
  if !d.impl then some .unsupportedFormat
  else if s.opWidth ≤ 0 ∨ s.opHeight ≤ 0 then some .invalidDimension
  else if s.opRowStride < minStride d.groupPixels d.groupBytes s.opWidth.toNat ∨ s.opRowStride % d.groupBytes ≠ 0 then
    some .invalidDimension
  else if s.opDstLen < s.opRowStride * s.opHeight.toNat then some .bufferTooSmall
  else if s.opSrcLen ≠ s.opWidth.toNat * s.opHeight.toNat * 3 then some .sourceSizeMismatch
  else none

/-- One use of the sample at index `i`, for the byte at DST address `a`: the sample, or, when the host wrote it while the
command runs, any of the values it has had since the start (70_reset_and_hazards.md R247, log 9). -/
def State.useSample (s : State) (a use i : Nat) : Sample :=
  match s.hazards.stale.filter (fun c => c.1 == i) with
  | [] => s.src.read i
  | older => ((older.map (fun c => c.2))[Config.freeUse s.tick a use i % (older.length + 1)]?).getD (s.src.read i)

/-- The slots of group `g` of row `y` (44_bit_packer.md R151), for the byte at DST address `a`. -/
def State.slots (s : State) (groupPixels y g a : Nat) : Slots := fun k use =>
  let x := g * groupPixels + k
  let w := s.opWidth.toNat
  if x < w then
    some ⟨s.useSample a use (sampleIndex w y x 0), s.useSample a use (sampleIndex w y x 1),
      s.useSample a use (sampleIndex w y x 2)⟩
  else none

/-- The bytes of group `g` of row `y`: byte `j` of the group function's list, for each `j` below GB (R187). -/
def State.groupBytes (s : State) (d : Descriptor) (packGroup : Slots → List Byte) (y g : Nat) : List Byte :=
  let a := groupAddress s.opRowStride d.groupBytes y g
  (List.range d.groupBytes).map (fun j => (packGroup (s.slots d.groupPixels y g (a + j))).getD j 0)

/-- The number of groups of a row, `ceil(W / GP)` (R53). -/
def State.rowGroups (s : State) (d : Descriptor) : Nat := ceilDiv s.opWidth.toNat d.groupPixels

/-- Write one group (R187). -/
def State.packOne (s : State) (d : Descriptor) (packGroup : Slots → List Byte) (m : Memory) (y g : Nat) : Memory :=
  m.writeBytes (groupAddress s.opRowStride d.groupBytes y g) (s.groupBytes d packGroup y g)

/-- Write the groups `gs` of row `y`; R187 leaves their order free (20_memory.md R58). -/
def State.packRow (s : State) (d : Descriptor) (packGroup : Slots → List Byte) (gs : List Nat) (y : Nat) (m : Memory) :
    Memory :=
  gs.foldr (fun g m => s.packOne d packGroup m y g) m

/-- Write the rows `ys`; R187 leaves their order and their workers free (20_memory.md R58, 60_exceptions.md R232). -/
def State.packRows (s : State) (d : Descriptor) (packGroup : Slots → List Byte) (ys : List Nat) (m : Memory) : Memory :=
  ys.foldr (fun y m => s.packRow d packGroup (List.range (s.rowGroups d)) y m) m

/-- Address `a` is in the write set of a successful PACK (20_memory.md R54). -/
def State.inWriteSet (s : State) (d : Descriptor) (a : Nat) : Bool :=
  decide (a / s.opRowStride < s.opHeight.toNat)
    && decide (a % s.opRowStride < minStride d.groupPixels d.groupBytes s.opWidth.toNat)

/-- The bytes of the write set that the host wrote while the command ran are unspecified (70_reset_and_hazards.md R246,
log 10). -/
def State.loseTouched (s : State) (d : Descriptor) (m : Memory) : Memory :=
  (s.hazards.touched.filter (fun a => s.inWriteSet d a)).foldr (fun a m => m.lose a (a + 1) s.tick) m

/-- PACK of a tag with descriptor `d` and group function `packGroup` (R180): validate, then write every group of every row. -/
def State.pack (s : State) (d : Descriptor) (packGroup : Slots → List Byte) : Host.Outcome State Fault Refusal :=
  match s.packCheck d with
  | some e => .next (s.raise .pack e)
  | none =>
    .next ({ s with
      dst := s.loseTouched d (s.packRows d packGroup (List.range s.opHeight.toNat) s.dst) }).completeOk

/-- PACK.RGB8 (R190). -/
def execPackRgb8 (s : State) : Host.Outcome State Fault Refusal := s.pack (descRead .rgb8) packGroupRgb8

/-- PACK.ARGB8 (R191). -/
def execPackArgb8 (s : State) : Host.Outcome State Fault Refusal := s.pack (descRead .argb8) packGroupArgb8

/-- PACK.BGRA8 (R192). -/
def execPackBgra8 (s : State) : Host.Outcome State Fault Refusal := s.pack (descRead .bgra8) packGroupBgra8

/-- PACK.RGB10 (R193). -/
def execPackRgb10 (s : State) : Host.Outcome State Fault Refusal := s.pack (descRead .rgb10) packGroupRgb10

/-- PACK.RGB12_BE (R194). -/
def execPackRgb12Be (s : State) : Host.Outcome State Fault Refusal := s.pack (descRead .rgb12Be) packGroupRgb12Be

/-- PACK.RGB12_LE (R195). -/
def execPackRgb12Le (s : State) : Host.Outcome State Fault Refusal := s.pack (descRead .rgb12Le) packGroupRgb12Le

/-- PACK.YUV8_422 (R196). -/
def execPackYuv8_422 (s : State) : Host.Outcome State Fault Refusal :=
  s.pack (descRead .yuv8_422) (packGroupYuv8_422 s.params)

/-- PACK.YUV10_422 (R197). -/
def execPackYuv10_422 (s : State) : Host.Outcome State Fault Refusal :=
  s.pack (descRead .yuv10_422) (packGroupYuv10_422 s.params)

/-- PACK.RGB10X_BE (R198): the `not d.impl` line of R180. -/
def execPackRgb10xBe (s : State) : Host.Outcome State Fault Refusal := .next (s.raise .pack .unsupportedFormat)

/-- PACK.RGB10X_LE (R199). -/
def execPackRgb10xLe (s : State) : Host.Outcome State Fault Refusal := .next (s.raise .pack .unsupportedFormat)

/-- PACK.YUVA10_422 (R200). -/
def execPackYuva10_422 (s : State) : Host.Outcome State Fault Refusal := .next (s.raise .pack .unsupportedFormat)

end Sys2Proof.Machine
end

