-- ==== Sys2Proof/Machine/Dispatch.lean ====
section
/-! DEFINITION. One arm per command, one meaning per arm (45_format_dispatcher.md R186). -/

namespace Sys2Proof.Machine

def exec (i : Instr) (s : State) : Host.Outcome State Fault Refusal :=
  match i with
  | .describe tag => Sys2Proof.Machine.execDescribe tag s
  | .stride tag => Sys2Proof.Machine.execStride tag s
  | .packRgb8 => Sys2Proof.Machine.execPackRgb8 s
  | .packArgb8 => Sys2Proof.Machine.execPackArgb8 s
  | .packBgra8 => Sys2Proof.Machine.execPackBgra8 s
  | .packRgb10 => Sys2Proof.Machine.execPackRgb10 s
  | .packRgb12Be => Sys2Proof.Machine.execPackRgb12Be s
  | .packRgb12Le => Sys2Proof.Machine.execPackRgb12Le s
  | .packYuv8_422 => Sys2Proof.Machine.execPackYuv8_422 s
  | .packYuv10_422 => Sys2Proof.Machine.execPackYuv10_422 s
  | .packRgb10xBe => Sys2Proof.Machine.execPackRgb10xBe s
  | .packRgb10xLe => Sys2Proof.Machine.execPackRgb10xLe s
  | .packYuva10_422 => Sys2Proof.Machine.execPackYuva10_422 s

end Sys2Proof.Machine
end

