-- ==== Sys2Proof/Machine/Run.lean ====
section
/-! DEFINITION. The two agents' turns: the converter running the command in CMD, and the host's actions. -/

namespace Sys2Proof.Machine

/-- How a command word outside the table completes (30_encoding.md R85, R87): IllegalCommand, which leaves DST alone, or, for
a PACK of an unregistered tag, UnsupportedFormat. -/
def State.rejectCommand (s : State) : Reject → State
  | .reservedBits => s.raise .other .illegalCommand
  | .reservedOperation => s.raise .other .illegalCommand
  | .packUnregisteredTag => s.raise .pack .unsupportedFormat

/-- Decode the word in CMD and execute it to completion (30_encoding.md R84, R85). -/
def State.runCommand (s : State) : Host.Outcome State Fault Refusal :=
  match decode s.cmd with
  | .instr i => exec i s
  | .reject r => .next (s.rejectCommand r)

/-- The converter's turn: it completes the running command; an idle converter does nothing (20_memory.md R63). -/
def State.converterTurn (s : State) : Host.Outcome State Fault Refusal :=
  if s.busy then s.runCommand else .next s

/-- The state the running command completes in. -/
def State.commandEnd (s : State) : State :=
  match s.runCommand with
  | .next t => t
  | .fault _ => s
  | .refused _ => s

/-- A host write to a register (10_state.md R21, R27): ignored while BUSY = 1 (70_reset_and_hazards.md R250), at offsets that
are no register and at read-only registers; a write to CMD starts a command (30_encoding.md R84). A value wider than the
register loses its upper bits (log 12). -/
def State.hostWriteReg (s : State) (offset : Nat) (value : BitVec 128) : Host.Outcome State Fault Refusal :=
  match regSlot offset with
  | .inside => .refused (.partialRegisterAccess offset)
  | .hole => .next s
  | .reg r =>
    if s.busy then .next s
    else
      match r with
      | .cmd => .next (s.start (value.setWidth 32))
      | .width => .next { s with width := value.setWidth 32 }
      | .height => .next { s with height := value.setWidth 32 }
      | .rowStride => .next { s with rowStride := value.setWidth 64 }
      | .srcLen => .next { s with srcLen := value.setWidth 64 }
      | .dstLen => .next { s with dstLen := value.setWidth 64 }
      | .status => .next s
      | .result => .next s
      | .desc => .next s
      | .descName => .next s

/-- A result register read while BUSY = 1 may already hold its new value, and then keeps it (70_reset_and_hazards.md R249,
log 11). -/
def State.earlyResult (s : State) (r : Reg) : State :=
  if s.busy then
    let early := Config.freeEarly s.tick
    match r with
    | .result => { s with result := if early then s.commandEnd.result else s.result, tick := s.tick + 1 }
    | .desc => { s with desc := if early then s.commandEnd.desc else s.desc, tick := s.tick + 1 }
    | .descName => { s with descName := if early then s.commandEnd.descName else s.descName, tick := s.tick + 1 }
    | .cmd => s
    | .status => s
    | .width => s
    | .height => s
    | .rowStride => s
    | .srcLen => s
    | .dstLen => s
  else s

/-- A host read of a register (10_state.md R21): always allowed (70_reset_and_hazards.md R250); 0 where no register is. -/
def State.hostReadReg (s : State) (offset : Nat) : Host.Outcome State Fault Refusal :=
  match regSlot offset with
  | .inside => .refused (.partialRegisterAccess offset)
  | .hole => .next { s with readData := 0 }
  | .reg r => .next { s.earlyResult r with readData := (s.earlyResult r).regValue r }

/-- A host write to SRC; while BUSY = 1 the old value is kept beside the new one (70_reset_and_hazards.md R247). -/
def State.hostWriteSrc (s : State) (i : Nat) (v : Sample) : State :=
  { s with
    src := s.src.write i v
    hazards := if s.busy then { s.hazards with stale := (i, s.src.read i) :: s.hazards.stale } else s.hazards }

/-- A host write to DST; while BUSY = 1 the address is remembered (70_reset_and_hazards.md R246). -/
def State.hostWriteDst (s : State) (a : Nat) (v : Byte) : State :=
  { s with
    dst := s.dst.write a v
    hazards := if s.busy then { s.hazards with touched := a :: s.hazards.touched } else s.hazards }

/-- A host read of DST; while BUSY = 1 it returns any byte (70_reset_and_hazards.md R246, 93 U5, log 10). -/
def State.hostReadDst (s : State) (a : Nat) : State :=
  if s.busy then { s with readData := (Config.freeByte s.tick a).setWidth 128, tick := s.tick + 1 }
  else { s with readData := (s.dst.read a).setWidth 128 }

/-- The host reads STATUS until DONE = 1 (30_encoding.md R90): a read that shows DONE = 1 ends the wait, any other leaves the poll
to be done again. While BUSY = 1 the converter works before that next read (log 13). -/
def State.hostPoll (s : State) : Host.Outcome State Fault Refusal :=
  let again := { s with pending := .host .pollDone :: s.pending }
  if s.busy then again.runCommand
  else if s.done then .next { s with readData := s.regValue .status }
  else .next { again with readData := s.regValue .status }

/-- One action of the host. -/
def State.hostAct (s : State) : HostAction → Host.Outcome State Fault Refusal
  | .writeReg offset value => s.hostWriteReg offset value
  | .readReg offset => s.hostReadReg offset
  | .writeSrc i v => .next (s.hostWriteSrc i v)
  | .readSrc i => .next { s with readData := (s.src.read i).setWidth 128 }
  | .writeDst a v => .next (s.hostWriteDst a v)
  | .readDst a => .next (s.hostReadDst a)
  | .pollDone => s.hostPoll
  | .writeBack offset factor => s.hostWriteReg offset (s.readData * BitVec.ofNat 128 factor)
  | .skipOnError count => .next { s with pending := if s.err then s.pending.drop count else s.pending }

/-- One event. -/
def State.takeEvent (s : State) : Event → Host.Outcome State Fault Refusal
  | .host action => s.hostAct action
  | .converter => s.converterTurn
  | .reset => .next s.applyReset

/-- The state in which the converter's turn is next and runs the command word `w`, the events after it as they were. -/
def State.launch (s : State) (w : Word) : State := { s.start w with pending := .converter :: s.pending }

end Sys2Proof.Machine
end

