-- ==== Sys2Proof/Machine/Step.lean ====
section
/-! DEFINITION. One step of the machine. The converter has no program counter and fetches nothing (10_state.md R25, R26): a
step takes the oldest pending event; with none left it is the converter's turn (log 1). -/

namespace Sys2Proof.Machine

/-- One step: the oldest pending event, or the converter's turn. -/
def step (s : State) : Host.Outcome State Fault Refusal :=
  match s.pending with
  | [] => s.converterTurn
  | e :: rest => ({ s with pending := rest }).takeEvent e

/-- The command word `w` just started (30_encoding.md R84) and the converter's turn next, so that the very next step runs it
(log 2). A command is one 32-bit word (R80, R89). -/
def State.withFetchWord (s : State) (nbits w : Nat) : State := s.launch (BitVec.ofNat 32 (w % 2 ^ nbits))

end Sys2Proof.Machine
end

