-- ==== Sys2Proof/Machine/Assembler.lean ====
section
/-! DEFINITION. The host program statements of 30_encoding.md R90 and the pseudo-instruction PACKMIN of R91, as the host
actions they stand for. A tag is its code (R82). -/

namespace Sys2Proof.Machine

/-- The operand registers a SET may name (R90). -/
inductive OperandReg where
  | width | height | rowStride | srcLen | dstLen
deriving DecidableEq, Repr

/-- One statement. A value is the bit pattern the host writes. -/
inductive Stmt where
  | set (reg : OperandReg) (value : BitVec 64)
  | describe (tag : BitVec 8)
  | stride (tag : BitVec 8)
  | pack (tag : BitVec 8)
  | cmd (word : Word)
  | strideOf (tag : BitVec 8) (w : Word)
  | packOf (tag : BitVec 8) (w h : Word) (rs sl dl : BitVec 64)
  | packMin (tag : BitVec 8) (w h : Word) (sl : BitVec 64)
deriving DecidableEq, Repr

/-- The register a SET writes. -/
def OperandReg.reg : OperandReg → Reg
  | .width => .width
  | .height => .height
  | .rowStride => .rowStride
  | .srcLen => .srcLen
  | .dstLen => .dstLen

/-- `SET reg, value` (R90). -/
def setEvents (r : OperandReg) (value : BitVec 64) : List Event :=
  [.host (.writeReg r.reg.offset (value.setWidth 128))]

/-- Write CMD, then poll STATUS until DONE = 1 (R90). -/
def commandEvents (c : Word) : List Event := [.host (.writeReg Reg.cmd.offset (c.setWidth 128)), .host .pollDone]

/-- The host actions of a statement, in order (R90, R91). -/
def expandStmt : Stmt → List Event
  | .set r value => setEvents r value
  | .describe tag => commandEvents (commandWord 0 tag)
  | .stride tag => commandEvents (commandWord 1 tag)
  | .pack tag => commandEvents (commandWord 2 tag)
  | .cmd word => commandEvents word
  | .strideOf tag w => setEvents .width (w.setWidth 64) ++ commandEvents (commandWord 1 tag)
  | .packOf tag w h rs sl dl =>
    setEvents .width (w.setWidth 64) ++ setEvents .height (h.setWidth 64) ++ setEvents .rowStride rs
      ++ setEvents .srcLen sl ++ setEvents .dstLen dl ++ commandEvents (commandWord 2 tag)
  | .packMin tag w h sl =>
    let rest := setEvents .height (h.setWidth 64)
      ++ [.host (.readReg Reg.result.offset), .host (.writeBack Reg.rowStride.offset 1)]
      ++ setEvents .srcLen sl
      ++ [.host (.readReg Reg.result.offset), .host (.writeBack Reg.dstLen.offset h.toNat)]
      ++ commandEvents (commandWord 2 tag)
    setEvents .width (w.setWidth 64) ++ commandEvents (commandWord 1 tag)
      ++ (.host (.skipOnError rest.length) :: rest)

/-- The host actions of a program. -/
def expandProgram (p : List Stmt) : List Event := p.flatMap expandStmt

end Sys2Proof.Machine
end

