-- ==== Sys2Proof/Safety.lean ====
section
/-! DEFINITION. What claims are stated in: the components a PACK places, the operands a PACK accepts (45_format_dispatcher.md R180), what a completion leaves
alone, which codes a command can report (R201), the host's duties (70_reset_and_hazards.md R243 to R252), and the invariant of
the machine. -/

namespace Sys2Proof.Machine

/-! ## The frame of a PACK -/

/-- The checks of R180 pass for a format of `gp` pixels and `gb` bytes a group (R182 to R184). -/
def State.PackReady (s : State) (gp gb : Nat) : Prop :=
  0 < s.opWidth ∧ 0 < s.opHeight
    ∧ ceilDiv s.opWidth.toNat gp * gb ≤ s.opRowStride ∧ s.opRowStride % gb = 0
    ∧ s.opRowStride * s.opHeight.toNat ≤ s.opDstLen
    ∧ s.opSrcLen = s.opWidth.toNat * s.opHeight.toNat * 3

/-- The pixel of row `y`, column `x` of the source frame (20_memory.md R51). -/
def State.pixelAt (s : State) (y x : Nat) : Pixel :=
  let i := (y * s.opWidth.toNat + x) * 3
  ⟨s.src.read i, s.src.read (i + 1), s.src.read (i + 2)⟩

/-- The pixel of row `y`, column `x`, none when the column is beyond the row (44_bit_packer.md R151). -/
def State.slotPixel (s : State) (y x : Nat) : Option Pixel :=
  if x < s.opWidth.toNat then some (s.pixelAt y x) else none

/-- The YUV values of row `y`, column `x`: the matrix on red, green and blue, in this order, each rescaled to 8 bits
(43_color_converter.md R140, R146), with the machine's `YUV_OFFSET`; all 0 for an absent column (44_bit_packer.md R152, R161). -/
def State.yuvOf (s : State) (y x : Nat) : Yuv :=
  if x < s.opWidth.toNat then
    let p := s.pixelAt y x
    rgbToYuv s.params.yuvOffset (rescale p.r 8) (rescale p.g 8) (rescale p.b 8)
  else ⟨0, 0, 0⟩

/-- The three 12-bit components of row `y`, column `x`, all 0 for an absent column (44_bit_packer.md R152, R157). -/
def State.pixel12 (s : State) (y x : Nat) : List Nat :=
  if x < s.opWidth.toNat then
    let p := s.pixelAt y x
    [rescale p.r 12, rescale p.g 12, rescale p.b 12]
  else [0, 0, 0]

/-- The six 12-bit components of the pixels in columns `2g` and `2g + 1` of row `y`, in the order of 44_bit_packer.md R157. -/
def State.components12 (s : State) (y g : Nat) : List Nat := s.pixel12 y (2 * g) ++ s.pixel12 y (2 * g + 1)

/-- The twelve components of group `g` of row `y` of a YUV10_422 frame, in the stream order of 44_bit_packer.md R163: U, Y, V of
an even column and Y of the odd one after it, three times. -/
def State.components10 (s : State) (y g : Nat) : List Nat :=
  [(s.yuvOf y (6 * g)).u, (s.yuvOf y (6 * g)).y, (s.yuvOf y (6 * g)).v, (s.yuvOf y (6 * g + 1)).y,
    (s.yuvOf y (6 * g + 2)).u, (s.yuvOf y (6 * g + 2)).y, (s.yuvOf y (6 * g + 2)).v, (s.yuvOf y (6 * g + 3)).y,
    (s.yuvOf y (6 * g + 4)).u, (s.yuvOf y (6 * g + 4)).y, (s.yuvOf y (6 * g + 4)).v, (s.yuvOf y (6 * g + 5)).y]

/-- Write the groups listed as pairs (row, group); R187 leaves their order free (45_format_dispatcher.md R180, R232). -/
def State.packPairs (s : State) (d : Descriptor) (packGroup : Slots → List Byte) (yg : List (Nat × Nat)) (m : Memory) :
    Memory :=
  yg.foldr (fun p m => s.packOne d packGroup m p.1 p.2) m

/-- Every group of every row of a frame, row by row (45_format_dispatcher.md R180). -/
def State.frameGroups (s : State) (d : Descriptor) : List (Nat × Nat) :=
  (List.range s.opHeight.toNat).flatMap (fun y => (List.range (s.rowGroups d)).map (fun g => (y, g)))

/-- The byte at `a` as a number. -/
def Memory.byteAt (m : Memory) (a : Nat) : Nat := (m.read a).toNat

/-- The `n` bytes of DST from address `a` on, as a read of each gives them. -/
def Memory.bytesAt (m : Memory) (a n : Nat) : List Byte := (List.range n).map (fun i => m.read (a + i))

/-- Address `a` is outside the write set of 20_memory.md R54. -/
def State.OutsideWriteSet (s : State) (gp gb a : Nat) : Prop :=
  ∀ y < s.opHeight.toNat, a < y * s.opRowStride ∨ y * s.opRowStride + ceilDiv s.opWidth.toNat gp * gb ≤ a

/-- CMD and the five operand registers are the same, and so are SRC (60_exceptions.md R216, 10_state.md R22) and the
configuration parameters (00_scope.md R6). -/
def State.OperandsKept (s t : State) : Prop :=
  t.cmd = s.cmd ∧ t.width = s.width ∧ t.height = s.height ∧ t.rowStride = s.rowStride ∧ t.srcLen = s.srcLen
    ∧ t.dstLen = s.dstLen ∧ t.src = s.src ∧ t.params = s.params

/-- RESULT, DESC and DESC_NAME are the same (60_exceptions.md R216). -/
def State.ResultsKept (s t : State) : Prop := t.result = s.result ∧ t.desc = s.desc ∧ t.descName = s.descName

/-- Each of the ten registers of 10_state.md R21 holds 0 (R36). -/
def State.RegistersZero (s : State) : Prop :=
  s.cmd = 0 ∧ s.status = 0 ∧ s.width = 0 ∧ s.height = 0 ∧ s.rowStride = 0 ∧ s.srcLen = 0 ∧ s.dstLen = 0 ∧ s.result = 0
    ∧ s.desc = 0 ∧ s.descName = 0

/-- What the outside world does next, and what it last read, are the same. -/
def State.OutsideKept (s t : State) : Prop := t.pending = s.pending ∧ t.readData = s.readData

/-- A successful PACK completed (45_format_dispatcher.md R189): STATUS reads 0x02, everything but STATUS, DST and the model's
own counters is as before, and DST is as before outside the write set. -/
def State.PackedFrom (t s : State) (gp gb : Nat) : Prop :=
  t.status = 0x02 ∧ s.OperandsKept t ∧ s.ResultsKept t ∧ s.OutsideKept t
    ∧ ∀ a, s.OutsideWriteSet gp gb a → t.dst.read a = s.dst.read a

/-- A PACK failed with STATUS `w` (60_exceptions.md R216): the registers other than STATUS are as before, and DST is as before
at and above DST_LEN. -/
def State.PackFailedFrom (t s : State) (w : Word) : Prop :=
  t.status = w ∧ s.OperandsKept t ∧ s.ResultsKept t ∧ s.OutsideKept t
    ∧ ∀ a, s.opDstLen ≤ a → t.dst.read a = s.dst.read a

/-- A DESCRIBE, a STRIDE or an IllegalCommand failed with STATUS `w` (60_exceptions.md R216): nothing else changes, DST not
excepted. -/
def State.OtherFailedFrom (t s : State) (w : Word) : Prop :=
  t.status = w ∧ s.OperandsKept t ∧ s.ResultsKept t ∧ s.OutsideKept t ∧ t.dst = s.dst

/-- The instruction of an implemented tag, with its tag (45_format_dispatcher.md R186). -/
def implementedPacks : List (Instr × Tag) :=
  [(.packRgb8, .rgb8), (.packArgb8, .argb8), (.packBgra8, .bgra8), (.packRgb10, .rgb10), (.packRgb12Be, .rgb12Be),
    (.packRgb12Le, .rgb12Le), (.packYuv8_422, .yuv8_422), (.packYuv10_422, .yuv10_422)]

/-- The group function of an implemented tag (45_format_dispatcher.md R186), at the parameters `c`. -/
def groupFunction (c : Parameters) : Tag → Option (Slots → List Byte)
  | .rgb8 => some packGroupRgb8
  | .argb8 => some packGroupArgb8
  | .bgra8 => some packGroupBgra8
  | .rgb10 => some packGroupRgb10
  | .rgb12Be => some packGroupRgb12Be
  | .rgb12Le => some packGroupRgb12Le
  | .yuv8_422 => some (packGroupYuv8_422 c)
  | .yuv10_422 => some (packGroupYuv10_422 c)
  | .rgb10xBe => none
  | .rgb10xLe => none
  | .yuva10_422 => none

/-- The table of 40_descriptor_table.md R112, written from the rule's own columns: tag code, `encodeDesc`, name bytes (byte 0
lowest). Tag 10's word has the OPEN group in it (log 7). -/
def encodedDescriptors : List (Nat × Word × BitVec 128) :=
  [(0, 0x03010438, 0x38424752), (1, 0x04011448, 0x3842475241), (2, 0x04012448, 0x3841524742),
    (3, 0x0401053A, 0x3031424752), (4, 0x0902053C, 0x45425F3231424752), (5, 0x0902063C, 0x454C5F3231424752),
    (6, 0x040234B8, 0x3232345F38565559), (7, 0x100636BA, 0x3232345F3031565559), (8, 0x0401013A, 0x45425F583031424752),
    (9, 0x0401023A, 0x454C5F583031424752),
    (10, BitVec.ofNat 32 (0x000043CA + yuva10GroupPixels * 2 ^ 16 + yuva10GroupBytes * 2 ^ 24), 0x3232345F303141565559)]

/-- The commands that are a PACK (30_encoding.md R81). -/
def isPackInstr : Instr → Bool
  | .describe _ => false
  | .stride _ => false
  | .packRgb8 => true
  | .packArgb8 => true
  | .packBgra8 => true
  | .packRgb10 => true
  | .packRgb12Be => true
  | .packRgb12Le => true
  | .packYuv8_422 => true
  | .packYuv10_422 => true
  | .packRgb10xBe => true
  | .packRgb10xLe => true
  | .packYuva10_422 => true

/-- Which completion codes a command can report (45_format_dispatcher.md R201). -/
def mayReport : Decoded → List Nat
  | .instr (.describe t) => if t ≤ 10 then [0] else [1]
  | .instr (.stride t) => if t ≤ 10 then [0, 2] else [1]
  | .instr .packRgb8 => [0, 2, 3, 4]
  | .instr .packArgb8 => [0, 2, 3, 4]
  | .instr .packBgra8 => [0, 2, 3, 4]
  | .instr .packRgb10 => [0, 2, 3, 4]
  | .instr .packRgb12Be => [0, 2, 3, 4]
  | .instr .packRgb12Le => [0, 2, 3, 4]
  | .instr .packYuv8_422 => [0, 2, 3, 4]
  | .instr .packYuv10_422 => [0, 2, 3, 4]
  | .instr .packRgb10xBe => [1]
  | .instr .packRgb10xLe => [1]
  | .instr .packYuva10_422 => [1]
  | .reject .reservedBits => [5]
  | .reject .reservedOperation => [5]
  | .reject .packUnregisteredTag => [1]

/-! ## The host's duties -/

/-- The event at the head of `pending` keeps the host's duties of 70_reset_and_hazards.md R246, R247, R250 and R252: while
BUSY = 1 the host touches neither SRC (write) nor DST (read or write) and writes no register. -/
def State.hostKeepsDuties (s : State) : Bool :=
  match s.pending with
  | .host (.writeSrc _ _) :: _ => !s.busy
  | .host (.writeDst _ _) :: _ => !s.busy
  | .host (.readDst _) :: _ => !s.busy
  | .host (.writeReg _ _) :: _ => !s.busy
  | .host (.writeBack _ _) :: _ => !s.busy
  | _ => true

/-! ## The invariant -/

/-- The values STATUS can hold (10_state.md R28): reset, running, OK, and the five errors. -/
def statusValues : List Word := [0x00, 0x01, 0x02, 0x16, 0x26, 0x36, 0x46, 0x56]

/-- RESULT holds its reset value or the minimum stride of some registered tag and some positive width (10_state.md R29). -/
def LegalResult (v : BitVec 64) : Prop :=
  v = 0 ∨ ∃ (t : Tag) (w : Nat), 0 < w ∧ w < 2 ^ 31
    ∧ v.toNat = minStride (descRead t).groupPixels (descRead t).groupBytes w

/-- DESC and DESC_NAME hold their reset values or the descriptor of one registered tag (10_state.md R30, R31). -/
def LegalDescriptor (desc : Word) (name : BitVec 128) : Prop :=
  (desc = 0 ∧ name = 0) ∨ ∃ t : Tag, desc = encodeDesc (descRead t) ∧ name = encodeName (descRead t)

/-- The command in CMD is a DESCRIBE of a registered tag. -/
def DescribesRegisteredTag (c : Word) : Prop := ∃ t ≤ 10, decode c = .instr (.describe t)

/-- What every step keeps. -/
structure State.Inv (s : State) : Prop where
  /-- DST is in its canonical form. -/
  dstWf : s.dst.wf = true
  /-- SRC is in its canonical form. -/
  srcWf : s.src.wf = true
  /-- STATUS holds a value R28 allows: BUSY and DONE are never both 1, ERR = (CODE ≠ 0), reserved bits read 0. -/
  status : s.status ∈ statusValues
  /-- After reset and before the first command, CMD and the result registers read 0 (R36). -/
  fresh : s.status = 0 → s.cmd = 0 ∧ s.result = 0 ∧ s.desc = 0 ∧ s.descName = 0
  /-- A completed command reported a code that R201 allows for the word in CMD. -/
  code : s.done = true → s.code.toNat ∈ mayReport (decode s.cmd)
  /-- RESULT is a stride (R29). -/
  result : LegalResult s.result
  /-- DESC and DESC_NAME agree, unless a DESCRIBE is bringing in new ones (R30, R31, R249). -/
  descriptor : LegalDescriptor s.desc s.descName ∨ (s.busy = true ∧ DescribesRegisteredTag s.cmd)
  /-- Nothing of the hazards outlives a command (R34). -/
  hazards : s.busy = false → s.hazards = .none
  /-- The numbers of free bytes are used up below `tick`, so that later ones are new (log 6). -/
  lost : ∀ r ∈ s.dst.lost, r.id < s.tick

end Sys2Proof.Machine
end

