-- ==== Sys2Proof/Certificates/Slice0/Obligations.lean ====
section
/-! DEFINITION. The statements for the provers. Each says which rules of the spec it rests on; none is proved here. -/

open Sys2Proof Sys2Proof.Machine

/-! ## Encoding (30_encoding.md) -/

/-- Decoding the word of a well-formed command gives the command back, for every command and every tag operand the field can
hold (R80, R82, R86). -/
def Obligations.DecodeOfEncodeGivesTheCommand : Prop :=
  ∀ i : Instr, i.wellFormed = true → decode (encode i) = .instr i

/-- The other direction: a word that decodes to a command is that command's word, and the command is well formed; so a command
has one word only (R80, R89). -/
def Obligations.DecodedWordIsTheWordOfItsCommand : Prop :=
  ∀ (c : Word) (i : Instr), decode c = .instr i → i.wellFormed = true ∧ encode i = c

/-- The decoder agrees with the table of R86: a word is a command exactly when some row selects it (`c & mask == match`), and
the one row that selects it is the row of the command it decodes to. -/
def Obligations.DecodeAgreesWithTheOpcodeTable : Prop :=
  ∀ c : Word,
    ((∃ i, decode c = .instr i) ↔ ∃ r ∈ opcodeTable, r.selects c = true)
      ∧ ∀ i, decode c = .instr i → ∀ r ∈ opcodeTable, (r.selects c = true ↔ r = opcodeRow i)

/-- The three classes of R87, by the number the word is: 0x400 and above (a bit of 31:10 set), 0x300 to 0x3FF (OP = 3), 0x20B
to 0x2FF (PACK of a tag 11 to 255); every other word is a command. -/
def Obligations.WordsOutsideTheTableFallInThreeClasses : Prop :=
  ∀ c : Word,
    (0x400 ≤ c.toNat → decode c = .reject .reservedBits)
      ∧ (0x300 ≤ c.toNat → c.toNat < 0x400 → decode c = .reject .reservedOperation)
      ∧ (0x20B ≤ c.toNat → c.toNat < 0x300 → decode c = .reject .packUnregisteredTag)
      ∧ (c.toNat < 0x20B → ∃ i, decode c = .instr i)

/-- Words written out from the pattern column of R86 decode to the commands they stand for. -/
def Obligations.WordsWrittenOutFromTheTableDecode : Prop :=
  decode 0b00000000000000000000000000000010 = .instr (.describe 2)
    ∧ decode 0b00000000000000000000000100000111 = .instr (.stride 7)
    ∧ decode 0b00000000000000000000001000000000 = .instr .packRgb8
    ∧ decode 0b00000000000000000000001000000111 = .instr .packYuv10_422
    ∧ decode 0b00000000000000000000001000001010 = .instr .packYuva10_422
    ∧ decode 0b00000000000000000000001100000000 = .reject .reservedOperation

/-! ## Steps: the converter's turn and the host's actions -/

/-- While a command runs, the converter's turn executes the command its word decodes to: with no event pending, and with the
converter's turn at the head of the events, which it takes off (R84, R85; the event list is the model's choice, log 1). -/
def Obligations.ConverterTurnExecutesTheDecodedCommand : Prop :=
  ∀ (s : State) (i : Instr), s.busy = true → decode s.cmd = .instr i →
    (s.pending = [] → step s = exec i s)
      ∧ ∀ rest, s.pending = .converter :: rest → step s = exec i { s with pending := rest }

/-- After `withFetchWord`, the next step executes the word's command on the state R84 starts it in; the events that were
pending are pending still (log 2). -/
def Obligations.FetchedWordIsExecutedNext : Prop :=
  ∀ (s : State) (w : Nat) (i : Instr), decode (BitVec.ofNat 32 w) = .instr i → w < 2 ^ 32 →
    step (s.withFetchWord 32 w) = exec i (s.start (BitVec.ofNat 32 w))

/-- Command start (R84, R27): a host write of `c` to CMD while BUSY = 0 stores `c`, sets STATUS to BUSY alone, and changes
nothing else. -/
def Obligations.WriteToCmdWhileIdleStartsTheCommand : Prop :=
  ∀ (s : State) (c : Word) (rest : List Event), s.busy = false →
    s.pending = .host (.writeReg 0x00 (c.setWidth 128)) :: rest →
      ∃ t, step s = .next t ∧ t.cmd = c ∧ t.status = 0x01 ∧ t.busy = true ∧ t.done = false ∧ t.err = false ∧ t.code = 0
        ∧ t.width = s.width ∧ t.height = s.height ∧ t.rowStride = s.rowStride ∧ t.srcLen = s.srcLen ∧ t.dstLen = s.dstLen
        ∧ s.ResultsKept t ∧ t.src = s.src ∧ t.dst = s.dst ∧ t.pending = rest ∧ t.readData = s.readData

/-- Start, work and completion as one (R84: "a model may perform start, execution and completion as one atomic step"): a write
of a command's word to CMD while idle, and the converter's turn after it, execute the command on the started state. -/
def Obligations.WriteToCmdThenConverterTurnExecutesTheCommand : Prop :=
  ∀ (s : State) (i : Instr) (rest : List Event), s.busy = false → i.wellFormed = true →
    s.pending = .host (.writeReg 0x00 ((encode i).setWidth 128)) :: .converter :: rest →
      ∃ t, step s = .next t ∧ step t = exec i ({ s with pending := rest }.start (encode i))

/-- R250: a register write while BUSY = 1 is ignored, to CMD and to every other register and hole; at an offset inside a
register the model stops instead (log 12). -/
def Obligations.RegisterWriteWhileBusyIsIgnored : Prop :=
  ∀ (s : State) (offset : Nat) (value : BitVec 128) (rest : List Event), s.busy = true →
    s.pending = .host (.writeReg offset value) :: rest →
      (regSlot offset ≠ .inside → step s = .next { s with pending := rest })
        ∧ (regSlot offset = .inside → step s = .refused (.partialRegisterAccess offset))

/-- R21, R22: a host write to an operand register while idle stores the value there, at its offset and width, and changes
nothing else. -/
def Obligations.WriteToOperandRegisterStoresIt : Prop :=
  ∀ (s : State) (v : BitVec 128) (rest : List Event), s.busy = false →
    (s.pending = .host (.writeReg 0x08 v) :: rest →
        step s = .next { s with pending := rest, width := v.setWidth 32 })
      ∧ (s.pending = .host (.writeReg 0x0C v) :: rest →
        step s = .next { s with pending := rest, height := v.setWidth 32 })
      ∧ (s.pending = .host (.writeReg 0x10 v) :: rest →
        step s = .next { s with pending := rest, rowStride := v.setWidth 64 })
      ∧ (s.pending = .host (.writeReg 0x18 v) :: rest →
        step s = .next { s with pending := rest, srcLen := v.setWidth 64 })
      ∧ (s.pending = .host (.writeReg 0x20 v) :: rest →
        step s = .next { s with pending := rest, dstLen := v.setWidth 64 })

/-- R21: a write to a read-only register (STATUS, RESULT, DESC, DESC_NAME) or to an offset that is no register is ignored,
whether a command runs or not; and a read at an offset that is no register returns 0. -/
def Obligations.WritesOutsideTheWritableRegistersAreIgnored : Prop :=
  ∀ (s : State) (offset : Nat) (value : BitVec 128) (rest : List Event),
    (offset ∈ [0x04, 0x28, 0x30, 0x40] ∨ (0x34 ≤ offset ∧ offset ≤ 0x3F) ∨ 0x50 ≤ offset →
      s.pending = .host (.writeReg offset value) :: rest → step s = .next { s with pending := rest })
    ∧ ((0x34 ≤ offset ∧ offset ≤ 0x3F) ∨ 0x50 ≤ offset →
      s.pending = .host (.readReg offset) :: rest → step s = .next { s with pending := rest, readData := 0 })

/-- R21, R27, R28, R250: a host read at a register's offset returns that register, zero-extended, and changes nothing in the
machine; so reading STATUS does not clear DONE. CMD, STATUS and the operand registers read so at any time, the three result
registers while BUSY = 0. Only what the host last read changes (log 14). -/
def Obligations.RegisterReadReturnsTheRegister : Prop :=
  ∀ (s : State) (offset : Nat) (v : BitVec 128) (rest : List Event), s.pending = .host (.readReg offset) :: rest →
    ((offset, v) ∈ [(0x00, s.cmd.setWidth 128), (0x04, s.status.setWidth 128), (0x08, s.width.setWidth 128),
        (0x0C, s.height.setWidth 128), (0x10, s.rowStride.setWidth 128), (0x18, s.srcLen.setWidth 128),
        (0x20, s.dstLen.setWidth 128)] →
      step s = .next { s with pending := rest, readData := v })
    ∧ (s.busy = false →
      (offset, v) ∈ [(0x28, s.result.setWidth 128), (0x30, s.desc.setWidth 128), (0x40, s.descName)] →
      step s = .next { s with pending := rest, readData := v })

/-- R249: a read of RESULT while a command runs returns the value from before or the value the command leaves, and RESULT holds
from then on the value that was read; likewise DESC and DESC_NAME. Which one is a free value (log 11). -/
def Obligations.ResultReadWhileBusyIsOldOrNew : Prop :=
  ∀ (s : State) (rest : List Event), s.busy = true →
    (s.pending = .host (.readReg 0x28) :: rest → ∃ t, step s = .next t ∧ t.readData = t.result.setWidth 128
      ∧ (t.result = s.result ∨ t.result = s.commandEnd.result) ∧ t.desc = s.desc ∧ t.descName = s.descName
      ∧ s.OperandsKept t ∧ t.status = s.status ∧ t.dst = s.dst ∧ t.commandEnd.result = s.commandEnd.result)
    ∧ (s.pending = .host (.readReg 0x30) :: rest → ∃ t, step s = .next t ∧ t.readData = t.desc.setWidth 128
      ∧ (t.desc = s.desc ∨ t.desc = s.commandEnd.desc) ∧ t.result = s.result ∧ t.descName = s.descName
      ∧ s.OperandsKept t ∧ t.status = s.status ∧ t.dst = s.dst ∧ t.commandEnd.desc = s.commandEnd.desc)
    ∧ (s.pending = .host (.readReg 0x40) :: rest → ∃ t, step s = .next t ∧ t.readData = t.descName
      ∧ (t.descName = s.descName ∨ t.descName = s.commandEnd.descName) ∧ t.result = s.result ∧ t.desc = s.desc
      ∧ s.OperandsKept t ∧ t.status = s.status ∧ t.dst = s.dst ∧ t.commandEnd.descName = s.commandEnd.descName)

/-- Polling for DONE (R90, R243 step 5): while BUSY = 1 the converter works and the host polls again; a poll that reads STATUS
with DONE = 1 is over; one that reads DONE = 0, before any command, has changed nothing and is done again (log 13). -/
def Obligations.PollReadsStatusOnceDone : Prop :=
  ∀ (s : State) (rest : List Event), s.pending = .host .pollDone :: rest →
    (s.busy = true → step s = s.runCommand)
      ∧ (s.busy = false → s.done = true → step s = .next { s with pending := rest, readData := s.status.setWidth 128 })
      ∧ (s.busy = false → s.done = false → step s = .next { s with readData := s.status.setWidth 128 })

/-! ## Reset (10_state.md R36, 70_reset_and_hazards.md R240 to R242) -/

/-- After reset every register is 0, and so is every field of STATUS (R36); the parameters have their normative values, YUV_OFFSET
(0, 0, 0) of R6 and YUV10_SHIFT 0 (92 D19). -/
def Obligations.ResetStateReadsZeroInEveryRegister : Prop :=
  State.reset.RegistersZero
    ∧ State.reset.busy = false ∧ State.reset.done = false ∧ State.reset.err = false ∧ State.reset.code = 0
    ∧ State.reset.params = ⟨⟨0, 0, 0⟩, 0⟩

/-- R36, R242: the reset input, at any time, makes every register 0 and leaves SRC and the parameters alone; it leaves DST alone
too, unless a PACK is running, when DST at and above DST_LEN keeps its bytes (below, they are unspecified). That the input lands
between steps as an event, and that the later events and what the host last read stay, is the model's choice (log 19). -/
def Obligations.ResetInputClearsTheRegisters : Prop :=
  ∀ (s : State) (rest : List Event), s.pending = .reset :: rest →
    ∃ t, step s = .next t ∧ t.RegistersZero ∧ t.params = s.params ∧ t.src = s.src ∧ t.pending = rest ∧ t.readData = s.readData
      ∧ (¬ (s.busy = true ∧ isPackWord s.cmd = true) → t.dst = s.dst)
      ∧ ∀ a, s.opDstLen ≤ a → t.dst.read a = s.dst.read a

/-! ## Every command completes (45_format_dispatcher.md R188, R201; 60_exceptions.md R215, R216) -/

/-- R188, R254, R201: a running command, whatever its word and its operands, completes at the converter's turn, with BUSY = 0,
DONE = 1, a code R201 allows for the word, ERR exactly when the code is not 0, and CMD, the operand registers and SRC as they
were. -/
def Obligations.EveryRunningCommandCompletes : Prop :=
  ∀ s : State, s.busy = true → s.pending = [] →
    ∃ t, step s = .next t ∧ t.busy = false ∧ t.done = true ∧ t.code.toNat ∈ mayReport (decode s.cmd)
      ∧ (t.err = true ↔ t.code ≠ 0) ∧ t.status ∈ statusValues ∧ s.OperandsKept t ∧ s.OutsideKept t

/-- R216, R87: a word with a bit of 31:10 set or OP = 3 completes with IllegalCommand, STATUS 0x56, and changes nothing else;
DST is unchanged, not unspecified. -/
def Obligations.IllegalWordChangesOnlyStatus : Prop :=
  ∀ s : State, s.busy = true → s.pending = [] → 0x300 ≤ s.cmd.toNat →
    ∃ t, step s = .next t ∧ t.OtherFailedFrom s 0x56

/-- R181, R87: a PACK of a tag 11 to 255 completes with UnsupportedFormat, STATUS 0x16, whatever the operands hold. -/
def Obligations.PackOfUnregisteredTagIsUnsupported : Prop :=
  ∀ s : State, s.busy = true → s.pending = [] → 0x20B ≤ s.cmd.toNat → s.cmd.toNat ≤ 0x2FF →
    ∃ t, step s = .next t ∧ t.PackFailedFrom s 0x16

/-- R55: no command ever writes a DST address at or above DST_LEN, whether it succeeds or fails, in any state: neither a command
of the table nor a word outside it. -/
def Obligations.NoCommandWritesDstAtOrAboveDstLen : Prop :=
  ∀ (s t : State) (a : Nat), s.opDstLen ≤ a →
    ((∃ i, exec i s = .next t) ∨ s.runCommand = .next t) → t.dst.read a = s.dst.read a

/-- R216: the error completion, whatever the word and the operands. STATUS reads `0x06 | (code << 4)` for a code 1 to 5, CMD, the
operand registers, the result registers and SRC are as before, and DST is as before: all of it unless the word is a PACK
(`CMD.OP = 2` and `CMD[31:10] = 0`), at and above DST_LEN if it is one. -/
def Obligations.ErrorCompletionKeepsEverythingElse : Prop :=
  ∀ s t : State, s.runCommand = .next t → t.err = true →
    t.busy = false ∧ t.done = true ∧ 1 ≤ t.code.toNat ∧ t.code.toNat ≤ 5
      ∧ t.status.toNat = 0x06 ||| (t.code.toNat <<< 4)
      ∧ s.OperandsKept t ∧ s.ResultsKept t
      ∧ (s.cmd.toNat / 2 ^ 10 = 0 ∧ s.cmd.toNat / 2 ^ 8 % 4 = 2 → ∀ a, s.opDstLen ≤ a → t.dst.read a = s.dst.read a)
      ∧ (¬ (s.cmd.toNat / 2 ^ 10 = 0 ∧ s.cmd.toNat / 2 ^ 8 % 4 = 2) → t.dst = s.dst)

/-- R52, R216: only PACK commands write DST; after a DESCRIBE or a STRIDE, successful or not, every byte reads as before. -/
def Obligations.OnlyPackChangesDst : Prop :=
  ∀ (i : Instr) (s t : State), isPackInstr i = false → exec i s = .next t → ∀ a, t.dst.read a = s.dst.read a

/-- R29, R30, R31: RESULT changes only by a successful STRIDE, DESC and DESC_NAME only by a successful DESCRIBE. -/
def Obligations.ResultRegistersChangeOnlyByTheirOwnCommand : Prop :=
  ∀ (i : Instr) (s t : State), exec i s = .next t →
    (t.result ≠ s.result → (∃ tag, i = .stride tag) ∧ t.err = false)
      ∧ (t.desc ≠ s.desc ∨ t.descName ≠ s.descName → (∃ tag, i = .describe tag) ∧ t.err = false)

/-! ## DESCRIBE (40_descriptor_table.md) -/

/-- R110, R114, R215, with the words and names R112 derives: DESCRIBE of a registered tag leaves the tag's descriptor word in
DESC and its name in DESC_NAME (first character lowest), STATUS 0x02, and everything else as it was. Tag 10's word depends on
the OPEN group. -/
def Obligations.DescribeWritesTheDescriptorAndTheName : Prop :=
  ∀ (s : State) (e : Nat × Word × BitVec 128), e ∈ encodedDescriptors →
    ∃ t, exec (.describe e.1) s = .next t ∧ t.desc = e.2.1 ∧ t.descName = e.2.2 ∧ t.status = 0x02
      ∧ s.OperandsKept t ∧ t.result = s.result ∧ t.dst = s.dst ∧ s.OutsideKept t

/-- R110: DESCRIBE of a tag 11 or above fails with UnsupportedFormat and changes nothing but STATUS. -/
def Obligations.DescribeOfUnregisteredTagIsUnsupported : Prop :=
  ∀ (s : State) (tag : Nat), 10 < tag → ∃ t, exec (.describe tag) s = .next t ∧ t.OtherFailedFrom s 0x16

/-- R30, R101: the fields of a descriptor read back from the DESC encoding at their places, bit 11 reads 0, for every registered
tag, the one with the OPEN group among them; and DESC.IMPL is 1 exactly for the tags that have a group function (R111). -/
def Obligations.DescriptorFieldsReadBackFromDesc : Prop :=
  ∀ (c : Parameters) (tag : Tag),
    let d := descRead tag
    let w := encodeDesc d
    (w.extractLsb' 0 4).toNat = d.depth ∧ (w.extractLsb' 4 3).toNat = d.ncomp
      ∧ (w.extractLsb' 7 1).toNat = d.subsamp.code ∧ (w.extractLsb' 8 2).toNat = d.endian.code
      ∧ w.getLsbD 10 = d.impl ∧ w.getLsbD 11 = false ∧ (w.extractLsb' 12 4).toNat = d.order.code
      ∧ (w.extractLsb' 16 8).toNat = d.groupPixels ∧ (w.extractLsb' 24 8).toNat = d.groupBytes
      ∧ (w.getLsbD 10 = true ↔ (groupFunction c tag).isSome = true)

/-! ## STRIDE (41_row_stride.md) -/

/-- R122: STRIDE of a tag 11 or above fails with UnsupportedFormat whatever WIDTH holds; of a registered tag with WIDTH ≤ 0, with
InvalidDimension; else RESULT holds `ceil(W / GP) × GB` exactly, in 64 bits, and everything else is as it was. -/
def Obligations.StrideWritesTheMinimumStride : Prop :=
  ∀ (s : State) (code : Nat),
    (10 < code → ∃ t, exec (.stride code) s = .next t ∧ t.OtherFailedFrom s 0x16)
      ∧ ∀ tag, tagOfCode code = some tag →
        (s.opWidth ≤ 0 → ∃ t, exec (.stride code) s = .next t ∧ t.OtherFailedFrom s 0x26)
          ∧ (0 < s.opWidth → ∃ t, exec (.stride code) s = .next t
            ∧ t.result.toNat = ceilDiv s.opWidth.toNat (descRead tag).groupPixels * (descRead tag).groupBytes
            ∧ t.status = 0x02 ∧ s.OperandsKept t ∧ t.desc = s.desc ∧ t.descName = s.descName ∧ t.dst = s.dst
            ∧ s.OutsideKept t)

/-- R121: the five properties of `minStride`, for every registered tag and every width from 1 on. -/
def Obligations.MinStridePropertiesHold : Prop :=
  ∀ (tag : Tag) (w : Nat), 1 ≤ w →
    let gp := (descRead tag).groupPixels
    let gb := (descRead tag).groupBytes
    minStride gp gb w % gb = 0
      ∧ (ceilDiv (w * gb) gp ≤ minStride gp gb w ∧ minStride gp gb w < ceilDiv (w * gb) gp + gb)
      ∧ (∀ w', w ≤ w' → minStride gp gb w ≤ minStride gp gb w')
      ∧ minStride gp gb (w + gp) = minStride gp gb w + gb
      ∧ (gp = 1 → minStride gp gb w = w * gb)
      ∧ (w < 2 ^ 31 → minStride gp gb w ≤ 2 ^ 31 * 255 ∧ (tag ≠ .yuva10_422 → minStride gp gb w ≤ 9663676416))

/-! ## The datapath functions (42_precision_rescaler.md, 43_color_converter.md) -/

/-- R133: the boundary checks of the rescaler. -/
def Obligations.RescaleBoundaryValues : Prop :=
  rescale 0 8 = 0 ∧ rescale 65535 8 = 255 ∧ rescale 65535 10 = 1023 ∧ rescale 65535 12 = 4095

/-- R130 to R132: for each target depth the rescaler stays in range, never decreases, gives its maximum only to 65535, and is
the floor of the exact quotient; at depth 8 it is division by 257; the least sample that gives a value `v` is
`ceil(v × 65535 / (2^N − 1))`. -/
def Obligations.RescaleLaws : Prop :=
  ∀ n ∈ [8, 10, 12], ∀ s : Sample,
    rescale s n ≤ 2 ^ n - 1
      ∧ (rescale s n = 2 ^ n - 1 ↔ s = 65535)
      ∧ rescale s n * 65535 ≤ s.toNat * (2 ^ n - 1) ∧ s.toNat * (2 ^ n - 1) < (rescale s n + 1) * 65535
      ∧ (∀ s' : Sample, s.toNat ≤ s'.toNat → rescale s n ≤ rescale s' n)
      ∧ (n = 8 → rescale s n = s.toNat / 257)
      ∧ (∀ v, v ≤ rescale s n ↔ ceilDiv (v * 65535) (2 ^ n - 1) ≤ s.toNat)

/-- R141 to R144 with the normative offsets: luma is the rounded sum itself (its clamp never acts), chroma is the rounded sum, or
0 when the sum is negative; the ranges are 0 to 219 and 0 to 112; and a grey has no chroma. It rests on YUV_OFFSET = (0, 0, 0),
the value the reset state has (log 8). -/
def Obligations.YuvMatrixWithNormativeOffsets : Prop :=
  ∀ r g b : Nat, r ≤ 255 → g ≤ 255 → b ≤ 255 →
    let p := rgbToYuv ⟨0, 0, 0⟩ r g b
    let su : Int := 112 * b + 128 - 38 * r - 74 * g
    let sv : Int := 112 * r + 128 - 94 * g - 18 * b
    256 * p.y ≤ 66 * r + 129 * g + 25 * b + 128 ∧ 66 * r + 129 * g + 25 * b + 128 < 256 * p.y + 256
      ∧ (su < 0 → p.u = 0) ∧ (0 ≤ su → 256 * (p.u : Int) ≤ su ∧ su < 256 * (p.u : Int) + 256)
      ∧ (sv < 0 → p.v = 0) ∧ (0 ≤ sv → 256 * (p.v : Int) ≤ sv ∧ sv < 256 * (p.v : Int) + 256)
      ∧ p.y ≤ 219 ∧ p.u ≤ 112 ∧ p.v ≤ 112
      ∧ (r = g → g = b → p.u = 0 ∧ p.v = 0)

/-- R141 to R143 for any offsets: each output is in 0 to 255, equals the floor of its sum over 256 plus its offset where that is
in range, and is 0 below the range and 255 above it, never reduced modulo 256. -/
def Obligations.YuvMatrixClampsForAnyOffsets : Prop :=
  ∀ (o : YuvOffset) (r g b : Nat) (k : Int),
    (∀ p ∈ [((rgbToYuv o r g b).y, 66 * (r : Int) + 129 * g + 25 * b + 128, o.oy),
        ((rgbToYuv o r g b).u, -38 * (r : Int) - 74 * g + 112 * b + 128, o.ou),
        ((rgbToYuv o r g b).v, 112 * (r : Int) - 94 * g - 18 * b + 128, o.ov)],
      256 * k ≤ p.2.1 → p.2.1 < 256 * k + 256 →
        (k + p.2.2 < 0 → p.1 = 0) ∧ (255 < k + p.2.2 → p.1 = 255)
          ∧ (0 ≤ k + p.2.2 → k + p.2.2 ≤ 255 → (p.1 : Int) = k + p.2.2))

/-! ## PACK of the implemented tags (45_format_dispatcher.md R190 to R197)

The exact bytes are stated for a host that left SRC and DST alone while the command ran (R246, R247: `s.hazards = .none`);
`Obligations.PackCompletesWhateverTheHostDoes` and the three statements on host writes while BUSY = 1 cover the others. -/

/-- R190, R153: PACK.RGB8 writes R, G, B of each pixel, rescaled to 8 bits, at `y × RS + 3x`. -/
def Obligations.PackRgb8WritesRedGreenBlue : Prop :=
  ∀ s : State, s.PackReady 1 3 → s.hazards = .none →
    ∃ t, exec .packRgb8 s = .next t ∧ t.PackedFrom s 1 3
      ∧ ∀ y < s.opHeight.toNat, ∀ x < s.opWidth.toNat,
        let p := s.pixelAt y x
        (t.dst.bytesAt (y * s.opRowStride + 3 * x) 3).map BitVec.toNat = [rescale p.r 8, rescale p.g 8, rescale p.b 8]

/-- R191, R154, R164: PACK.ARGB8 writes 255, R, G, B of each pixel at `y × RS + 4x`. -/
def Obligations.PackArgb8WritesAlphaRedGreenBlue : Prop :=
  ∀ s : State, s.PackReady 1 4 → s.hazards = .none →
    ∃ t, exec .packArgb8 s = .next t ∧ t.PackedFrom s 1 4
      ∧ ∀ y < s.opHeight.toNat, ∀ x < s.opWidth.toNat,
        let p := s.pixelAt y x
        (t.dst.bytesAt (y * s.opRowStride + 4 * x) 4).map BitVec.toNat =
          [255, rescale p.r 8, rescale p.g 8, rescale p.b 8]

/-- R192, R155, R164: PACK.BGRA8 writes B, G, R, 255 of each pixel at `y × RS + 4x`. -/
def Obligations.PackBgra8WritesBlueGreenRedAlpha : Prop :=
  ∀ s : State, s.PackReady 1 4 → s.hazards = .none →
    ∃ t, exec .packBgra8 s = .next t ∧ t.PackedFrom s 1 4
      ∧ ∀ y < s.opHeight.toNat, ∀ x < s.opWidth.toNat,
        let p := s.pixelAt y x
        (t.dst.bytesAt (y * s.opRowStride + 4 * x) 4).map BitVec.toNat =
          [rescale p.b 8, rescale p.g 8, rescale p.r 8, 255]

/-- R193, R156: PACK.RGB10 writes, at `y × RS + 4x`, the four bytes of a big-endian word with R in bits 29:20, G in 19:10, B in
9:0 and bits 31:30 zero. -/
def Obligations.PackRgb10WritesBigEndianWords : Prop :=
  ∀ s : State, s.PackReady 1 4 → s.hazards = .none →
    ∃ t, exec .packRgb10 s = .next t ∧ t.PackedFrom s 1 4
      ∧ ∀ y < s.opHeight.toNat, ∀ x < s.opWidth.toNat,
        let p := s.pixelAt y x
        let a := y * s.opRowStride + 4 * x
        t.dst.byteAt a * 2 ^ 24 + t.dst.byteAt (a + 1) * 2 ^ 16 + t.dst.byteAt (a + 2) * 2 ^ 8 + t.dst.byteAt (a + 3) =
          rescale p.r 10 * 2 ^ 20 + rescale p.g 10 * 2 ^ 10 + rescale p.b 10

/-- R194, R158: PACK.RGB12_BE writes, for each pair `(a, b)` of the six 12-bit components of a group, the bytes
`[a[11:4], a[3:0] and b[11:8], b[7:0]]`, an absent second pixel's components 0. -/
def Obligations.PackRgb12BeWritesPairsHighPartFirst : Prop :=
  ∀ s : State, s.PackReady 2 9 → s.hazards = .none →
    ∃ t, exec .packRgb12Be s = .next t ∧ t.PackedFrom s 2 9
      ∧ ∀ y < s.opHeight.toNat, ∀ g, 2 * g < s.opWidth.toNat → ∀ k < 3,
        let c := s.components12 y g
        let a := c.getD (2 * k) 0
        let b := c.getD (2 * k + 1) 0
        (t.dst.bytesAt (y * s.opRowStride + 9 * g + 3 * k) 3).map BitVec.toNat =
          [a / 16, a % 16 * 16 + b / 256, b % 256]

/-- R195, R159: PACK.RGB12_LE writes, for each pair `(a, b)` of the six 12-bit components of a group, the bytes
`[a[7:0], b[3:0] and a[11:8], b[11:4]]`, an absent second pixel's components 0. -/
def Obligations.PackRgb12LeWritesPairsLowPartFirst : Prop :=
  ∀ s : State, s.PackReady 2 9 → s.hazards = .none →
    ∃ t, exec .packRgb12Le s = .next t ∧ t.PackedFrom s 2 9
      ∧ ∀ y < s.opHeight.toNat, ∀ g, 2 * g < s.opWidth.toNat → ∀ k < 3,
        let c := s.components12 y g
        let a := c.getD (2 * k) 0
        let b := c.getD (2 * k + 1) 0
        (t.dst.bytesAt (y * s.opRowStride + 9 * g + 3 * k) 3).map BitVec.toNat =
          [a % 256, b % 16 * 16 + a / 256, b / 16]

/-- R196, R161, R162, R146: PACK.YUV8_422 writes U, Y0, V, Y1 of each pair of columns, U and V both from the even column, and 0
for the luma of an absent odd column; a pixel's values are the matrix at the machine's YUV_OFFSET (normatively (0, 0, 0), log 8)
on its red, green and blue, each rescaled to 8 bits. -/
def Obligations.PackYuv8WritesMacroPixels : Prop :=
  ∀ s : State, s.PackReady 2 4 → s.hazards = .none →
    ∃ t, exec .packYuv8_422 s = .next t ∧ t.PackedFrom s 2 4
      ∧ ∀ y < s.opHeight.toNat, ∀ g, 2 * g < s.opWidth.toNat →
        let p0 := s.yuvOf y (2 * g)
        let p1 := s.yuvOf y (2 * g + 1)
        (t.dst.bytesAt (y * s.opRowStride + 4 * g) 4).map BitVec.toNat = [p0.u, p0.y, p0.v, p1.y]

/-- R197, R163, R146: PACK.YUV10_422 writes four little-endian words a group, each of three 10-bit fields, the first lowest, with
the twelve components in stream order, absent columns 0; a pixel's values are the matrix at the machine's YUV_OFFSET (normatively
(0, 0, 0)) on its red, green and blue, each rescaled to 8 bits, and enter their fields shifted left by YUV10_SHIFT, which is 0,
unscaled, unless the converter is configured otherwise (log 8). -/
def Obligations.PackYuv10WritesLittleEndianWords : Prop :=
  ∀ s : State, s.PackReady 6 16 → s.hazards = .none →
    ∃ t, exec .packYuv10_422 s = .next t ∧ t.PackedFrom s 6 16
      ∧ ∀ y < s.opHeight.toNat, ∀ g, 6 * g < s.opWidth.toNat → ∀ j < 4,
        let q := s.components10 y g
        let scale := 2 ^ s.params.yuv10Shift.val
        let a := y * s.opRowStride + 16 * g + 4 * j
        t.dst.byteAt a + t.dst.byteAt (a + 1) * 2 ^ 8 + t.dst.byteAt (a + 2) * 2 ^ 16 + t.dst.byteAt (a + 3) * 2 ^ 24 =
          q.getD (3 * j) 0 * scale + q.getD (3 * j + 1) 0 * scale * 2 ^ 10 + q.getD (3 * j + 2) 0 * scale * 2 ^ 20

/-- R189, R54 without any condition on what the host did to the buffers: an implemented PACK whose checks pass completes with
STATUS 0x02, the registers and SRC as they were, and DST as it was outside the write set. -/
def Obligations.PackCompletesWhateverTheHostDoes : Prop :=
  ∀ p ∈ implementedPacks, ∀ s : State,
    s.PackReady (descRead p.2).groupPixels (descRead p.2).groupBytes →
      ∃ t, exec p.1 s = .next t ∧ t.PackedFrom s (descRead p.2).groupPixels (descRead p.2).groupBytes

/-- R180 to R185: which error an implemented PACK reports, in the priority InvalidDimension (dimensions, then stride),
BufferTooSmall, SourceSizeMismatch; the products do not wrap. -/
def Obligations.PackReportsTheFirstErrorOfThePriority : Prop :=
  ∀ p ∈ implementedPacks, ∀ s : State,
    let gp := (descRead p.2).groupPixels
    let gb := (descRead p.2).groupBytes
    let fails (w : Word) : Prop := ∃ t, exec p.1 s = .next t ∧ t.PackFailedFrom s w
    let strideOk : Prop := ceilDiv s.opWidth.toNat gp * gb ≤ s.opRowStride ∧ s.opRowStride % gb = 0
    (s.opWidth ≤ 0 ∨ s.opHeight ≤ 0 → fails 0x26)
      ∧ (0 < s.opWidth → 0 < s.opHeight → ¬ strideOk → fails 0x26)
      ∧ (0 < s.opWidth → 0 < s.opHeight → strideOk → (s.opDstLen : Int) < s.opRowStride * s.opHeight → fails 0x36)
      ∧ (0 < s.opWidth → 0 < s.opHeight → strideOk → s.opRowStride * s.opHeight ≤ (s.opDstLen : Int) →
        (s.opSrcLen : Int) ≠ s.opWidth * s.opHeight * 3 → fails 0x46)

/-- R198 to R200: PACK of a registered tag without a layout fails with UnsupportedFormat, whatever the operands hold. -/
def Obligations.PackOfUnimplementedTagIsUnsupported : Prop :=
  ∀ i ∈ [Instr.packRgb10xBe, .packRgb10xLe, .packYuva10_422], ∀ s : State,
    ∃ t, exec i s = .next t ∧ t.PackFailedFrom s 0x16

/-! ## Order, purity and the host's duties -/

/-- R58, R180, R187, R232: the groups of a frame written in any order at all, by any division among workers and any interleaving
of them, leave the same byte at every address of DST as row by row; so do whole rows in any order, and the groups of one row; and
what a PACK leaves is what every one of these orders leaves. -/
def Obligations.OrderOfRowsAndGroupsIsUnobservable : Prop :=
  ∀ (s : State) (tag : Tag) (packGroup : Slots → List Byte) (m : Memory),
    let d := descRead tag
    s.PackReady d.groupPixels d.groupBytes →
      (∀ yg : List (Nat × Nat), yg.Perm (s.frameGroups d) →
        (∀ a, (s.packPairs d packGroup yg m).read a =
          (s.packRows d packGroup (List.range s.opHeight.toNat) m).read a)
        ∧ ∀ i t, (i, tag) ∈ implementedPacks → groupFunction s.params tag = some packGroup → s.hazards = .none →
          exec i s = .next t → ∀ a, t.dst.read a = (s.packPairs d packGroup yg s.dst).read a)
        ∧ (∀ ys : List Nat, ys.Perm (List.range s.opHeight.toNat) → ∀ a,
          (s.packRows d packGroup ys m).read a =
            (s.packRows d packGroup (List.range s.opHeight.toNat) m).read a)
        ∧ ∀ (y : Nat) (gs gs' : List Nat), gs.Perm gs' → ∀ a,
          (s.packRow d packGroup gs y m).read a = (s.packRow d packGroup gs' y m).read a

/-- R34, R35, R56: what a command reports and produces depends only on the command, the operand registers, the samples of the
frame and the parameters of R6: not on earlier results, on the contents of DST, on other samples, or on anything the model
counts. -/
def Obligations.CommandDependsOnlyOnItsInputs : Prop :=
  ∀ (i : Instr) (s s' t t' : State),
    s'.width = s.width → s'.height = s.height → s'.rowStride = s.rowStride → s'.srcLen = s.srcLen → s'.dstLen = s.dstLen →
    s'.params = s.params → (∀ k < s.opWidth.toNat * s.opHeight.toNat * 3, s'.src.read k = s.src.read k) →
    s.hazards = .none → s'.hazards = .none → exec i s = .next t → exec i s' = .next t' →
      t'.status = t.status
        ∧ (t.err = false →
          ((∃ tag, i = .stride tag) → t'.result = t.result)
            ∧ ((∃ tag, i = .describe tag) → t'.desc = t.desc ∧ t'.descName = t.descName)
            ∧ ∀ p ∈ implementedPacks, p.1 = i → ∀ a,
              ¬ s.OutsideWriteSet (descRead p.2).groupPixels (descRead p.2).groupBytes a → t'.dst.read a = t.dst.read a)

/-- R246, R247, R252: as long as the host keeps its duties, no hazard ever arises: from a state without one, a step leads to a
state without one, so that the exact bytes of the PACK statements hold. -/
def Obligations.HostKeepingItsDutiesMakesNoHazard : Prop :=
  ∀ s t : State, s.hostKeepsDuties = true → s.hazards = .none → step s = .next t → t.hazards = .none

/-- R247: a use of a sample that the host wrote while the command runs sees the present value or one that `hazards.stale` lists for
it. A host write while BUSY = 1 lists the value it overwrites and nothing else; so after one such write every use sees the old
value or the new one, and uses of the other samples are as before. That after several writes a use may see any of the values
listed since the start is the model's choice (log 9). -/
def Obligations.UseOfChangedSampleSeesOldOrNew : Prop :=
  ∀ s : State,
    (∀ a use i, s.useSample a use i = s.src.read i ∨ (i, s.useSample a use i) ∈ s.hazards.stale)
      ∧ ∀ (i : Nat) (v : Sample) (rest : List Event), s.pending = .host (.writeSrc i v) :: rest → s.busy = true →
        ∃ t, step s = .next t ∧ t.busy = true ∧ t.src.read i = v
          ∧ (∀ c ∈ t.hazards.stale, c = (i, s.src.read i) ∨ c ∈ s.hazards.stale)
          ∧ (s.hazards = .none → ∀ a use, t.useSample a use i = s.src.read i ∨ t.useSample a use i = v)
          ∧ ∀ a use j, j ≠ i → t.useSample a use j = s.useSample a use j

/-- R247: a host write to SRC while the command runs stores the sample and leaves the command running; its completion code and its
results are as they would have been, and so is every byte of DST outside the row the sample belongs to. -/
def Obligations.SrcWriteWhileBusyTouchesOneRow : Prop :=
  ∀ (s : State) (i : Nat) (v : Sample) (rest : List Event), s.busy = true → s.pending = .host (.writeSrc i v) :: rest →
    ∃ t, step s = .next t ∧ t = { s with pending := rest, src := t.src, hazards := t.hazards }
      ∧ (∀ j, t.src.read j = if j = i then v else s.src.read j)
      ∧ t.commandEnd.status = s.commandEnd.status ∧ s.commandEnd.ResultsKept t.commandEnd
      ∧ ∀ b, b / s.opRowStride ≠ i / (3 * s.opWidth.toNat) → t.commandEnd.dst.read b = s.commandEnd.dst.read b

/-- R246: a host write to a byte of DST while the command runs leaves the converter unaffected: it runs on, to the same completion
code and results, and the same byte at every other address. A host read of DST while the command runs changes nothing but what the
host last read, some byte (which one is a free value, log 10). -/
def Obligations.DstWriteWhileBusyTouchesOneByte : Prop :=
  ∀ (s : State) (a : Nat) (v : Byte) (rest : List Event), s.busy = true →
    (s.pending = .host (.writeDst a v) :: rest →
      ∃ t, step s = .next t ∧ t = { s with pending := rest, dst := t.dst, hazards := t.hazards }
        ∧ (∀ b, t.dst.read b = if b = a then v else s.dst.read b)
        ∧ t.commandEnd.status = s.commandEnd.status ∧ s.commandEnd.ResultsKept t.commandEnd
        ∧ ∀ b, b ≠ a → t.commandEnd.dst.read b = s.commandEnd.dst.read b)
    ∧ (s.pending = .host (.readDst a) :: rest →
      ∃ (b : Byte) (n : Nat), step s = .next { s with pending := rest, readData := b.setWidth 128, tick := n })

/-- R50, R52, R60, R252: while no command runs, a host write to SRC or DST stores its value at its index or address and changes
nothing else, and a host read returns what is stored there; a read of SRC does so while a command runs too. Only what the host
last read changes (log 14). -/
def Obligations.BuffersAreTheHostsWhileIdle : Prop :=
  ∀ (s : State) (i : Nat) (rest : List Event),
    (s.pending = .host (.readSrc i) :: rest →
      step s = .next { s with pending := rest, readData := (s.src.read i).setWidth 128 })
    ∧ (s.busy = false →
      (s.pending = .host (.readDst i) :: rest →
        step s = .next { s with pending := rest, readData := (s.dst.read i).setWidth 128 })
      ∧ (∀ v, s.pending = .host (.writeSrc i v) :: rest →
        ∃ t, step s = .next t ∧ t = { s with pending := rest, src := t.src }
          ∧ ∀ j, t.src.read j = if j = i then v else s.src.read j)
      ∧ ∀ v, s.pending = .host (.writeDst i v) :: rest →
        ∃ t, step s = .next t ∧ t = { s with pending := rest, dst := t.dst }
          ∧ ∀ a, t.dst.read a = if a = i then v else s.dst.read a)

/-! ## The invariant and the configuration -/

/-- R6: the parameters are a configuration: no step, whatever the host or the command does, changes them (log 8). -/
def Obligations.ParametersNeverChange : Prop := ∀ s t : State, step s = .next t → t.params = s.params

/-- The reset state meets the invariant. -/
def Obligations.ResetStateMeetsTheInvariant : Prop := State.reset.Inv

/-- Every step keeps the invariant, whatever the host does: canonical spaces, a STATUS R28 allows, a code R201 allows for CMD, a
RESULT that is a stride, a DESC and DESC_NAME of one tag, nothing of a hazard left over, and fresh free values. -/
def Obligations.EveryStepKeepsTheInvariant : Prop :=
  ∀ s t : State, s.Inv → step s = .next t → t.Inv
end

