-- ==== Sys2Proof/Laws/Decode.lean ====
section
/-! SUPPORT. The fields of a command word as numbers, and the cases of decode. -/

namespace Sys2Proof

theorem zeroField_toNat (c : Word) : (zeroField c).toNat = c.toNat / 1024 := by
  have := c.isLt
  simp only [zeroField, BitVec.extractLsb'_toNat, Nat.shiftRight_eq_div_pow]
  omega

theorem opField_toNat (c : Word) : (opField c).toNat = c.toNat / 256 % 4 := by
  simp [opField, BitVec.extractLsb'_toNat, Nat.shiftRight_eq_div_pow]

theorem tagField_toNat (c : Word) : (tagField c).toNat = c.toNat % 256 := by
  simp [tagField, BitVec.extractLsb'_toNat]

theorem commandWord_toNat (op : BitVec 2) (tag : BitVec 8) : (commandWord op tag).toNat = op.toNat * 256 + tag.toNat := by
  revert op tag; decide

theorem zeroField_eq_zero {c : Word} : zeroField c = 0 ↔ c.toNat < 1024 := by
  rw [← BitVec.toNat_inj, zeroField_toNat]; simp

theorem opField_eq {c : Word} {k : BitVec 2} : opField c = k ↔ c.toNat / 256 % 4 = k.toNat := by
  rw [← BitVec.toNat_inj, opField_toNat]

/-- decode by the number the word is (30_encoding.md R85). -/
theorem decode_eq (c : Word) : decode c =
    if 1024 ≤ c.toNat then .reject .reservedBits
    else if 768 ≤ c.toNat then .reject .reservedOperation
    else if c.toNat < 256 then .instr (.describe c.toNat)
    else if c.toNat < 512 then .instr (.stride (c.toNat - 256))
    else decodePack (c.toNat - 512) := by
  unfold decode
  by_cases h1 : 1024 ≤ c.toNat
  · have h : zeroField c ≠ 0 := fun h => absurd (zeroField_eq_zero.1 h) (by omega)
    rw [if_pos h, if_pos h1]
  · have hz : ¬ zeroField c ≠ 0 := not_not.2 (zeroField_eq_zero.2 (by omega))
    rw [if_neg hz, if_neg h1]
    have h3 : opField c = 3 ↔ c.toNat / 256 % 4 = 3 := opField_eq
    have h0 : opField c = 0 ↔ c.toNat / 256 % 4 = 0 := opField_eq
    have h4 : opField c = 1 ↔ c.toNat / 256 % 4 = 1 := opField_eq
    have ht := tagField_toNat c
    by_cases h2 : 768 ≤ c.toNat
    · rw [if_pos (h3.2 (by omega)), if_pos h2]
    · rw [if_neg (fun h => absurd (h3.1 h) (by omega)), if_neg h2]
      by_cases h5 : c.toNat < 256
      · rw [if_pos (h0.2 (by omega)), if_pos h5, ht, Nat.mod_eq_of_lt h5]
      · rw [if_neg (fun h => absurd (h0.1 h) (by omega)), if_neg h5]
        by_cases h6 : c.toNat < 512
        · rw [if_pos (h4.2 (by omega)), if_pos h6, ht,
            show c.toNat % 256 = c.toNat - 256 by omega]
        · rw [if_neg (fun h => absurd (h4.1 h) (by omega)), if_neg h6, ht,
            show c.toNat % 256 = c.toNat - 512 by omega]

/-- A PACK row or the class of unregistered tags (30_encoding.md R87). -/
theorem decodePack_of_lt {t : Nat} (h : 10 < t) : decodePack t = .reject .packUnregisteredTag := by
  unfold decodePack
  split <;> first | omega | rfl

end Sys2Proof
end

