-- ==== Sys2Proof/Laws/Descriptor.lean ====
section
/-! SUPPORT. The descriptor word of 40_descriptor_table.md R101 as one sum of its fields, and that every row of the table fits
the field widths. -/

namespace Sys2Proof.Machine

/-! ## The descriptor table -/

theorem groupPixels_pos (t : Tag) : 0 < (descRead t).groupPixels := by
  cases t <;> simp [descRead, yuva10GroupPixels]

theorem yuva10GroupPixels_even : yuva10GroupPixels % 2 = 0 := by simp [yuva10GroupPixels]

/-- The constraints of 00_scope.md R6 on the group of YUVA10_422. -/
theorem yuva10Group_bounds : 2 ≤ yuva10GroupPixels ∧ yuva10GroupPixels ≤ 255 ∧ 1 ≤ yuva10GroupBytes
    ∧ yuva10GroupBytes ≤ 255 ∧ 30 * yuva10GroupPixels ≤ 8 * yuva10GroupBytes := by
  have h1 : yuva10GroupPixels ≤ 68 := by have := Config.yuva10PixelPairs.isLt; simp only [yuva10GroupPixels]; omega
  have h2 : 2 ≤ yuva10GroupPixels := by simp only [yuva10GroupPixels]; omega
  have h3 : ceilDiv (30 * yuva10GroupPixels) 8 ≤ 255 := by unfold ceilDiv; omega
  have h4 : 30 * yuva10GroupPixels ≤ 8 * ceilDiv (30 * yuva10GroupPixels) 8 := by unfold ceilDiv; omega
  have h5 : Config.yuva10SpareBytes % (256 - ceilDiv (30 * yuva10GroupPixels) 8)
      < 256 - ceilDiv (30 * yuva10GroupPixels) 8 := Nat.mod_lt _ (by omega)
  have h6 : yuva10GroupBytes = ceilDiv (30 * yuva10GroupPixels) 8
      + Config.yuva10SpareBytes % (256 - ceilDiv (30 * yuva10GroupPixels) 8) := rfl
  omega

/-- Every value the constraints of 00_scope.md R6 allow is a value of the two constants for some choice of the free ones:
the model fixes nothing beyond the constraints (log 7). -/
theorem yuva10Group_reaches {gp gb : Nat} (h2 : gp % 2 = 0) (hlo : 2 ≤ gp) (hb : gb ≤ 255)
    (hbits : 30 * gp ≤ 8 * gb) :
    ∃ (p : Fin 34) (n : Nat), gp = 2 * (p.val + 1)
      ∧ gb = ceilDiv (30 * gp) 8 + n % (256 - ceilDiv (30 * gp) 8) := by
  refine ⟨⟨gp / 2 - 1, by omega⟩, gb - ceilDiv (30 * gp) 8, by simp only; omega, ?_⟩
  have : ceilDiv (30 * gp) 8 ≤ gb := by unfold ceilDiv; omega
  rw [Nat.mod_eq_of_lt (by omega)]; omega

theorem groupBytes_pos (t : Tag) : 0 < (descRead t).groupBytes := by
  have := yuva10Group_bounds
  cases t <;> simp [descRead]; omega

theorem groupBytes_le (t : Tag) : (descRead t).groupBytes ≤ 255 := by
  have := yuva10Group_bounds
  cases t <;> simp [descRead]; omega

theorem groupPixels_le (t : Tag) : (descRead t).groupPixels ≤ 255 := by
  have := yuva10Group_bounds
  cases t <;> simp [descRead]; omega

theorem tagOfCode_eq_none {t : Nat} : tagOfCode t = none ↔ 10 < t := by
  rcases Nat.lt_or_ge 10 t with h | h
  · have : tagOfCode t = none := by
      unfold tagOfCode
      split <;> first | omega | rfl
    simp [this, h]
  · interval_cases t <;> simp [tagOfCode]

/-! ## The descriptor word (40_descriptor_table.md R101) -/

theorem or_shiftLeft_eq_add {x y : Nat} (i : Nat) (h : y < 2 ^ i) : y ||| (x <<< i) = x * 2 ^ i + y := by
  rw [Nat.or_comm, ← Nat.shiftLeft_add_eq_or_of_lt h, Nat.shiftLeft_eq]

theorem descFields_eq_sum {a b c e i o p q : Nat} (ha : a < 16) (hb : b < 8) (hc : c < 2) (he : e < 4) (hi : i < 2)
    (ho : o < 16) (hp : p < 256) :
    a ||| (b <<< 4) ||| (c <<< 7) ||| (e <<< 8) ||| (i <<< 10) ||| (o <<< 12) ||| (p <<< 16) ||| (q <<< 24) =
      a + b * 2 ^ 4 + c * 2 ^ 7 + e * 2 ^ 8 + i * 2 ^ 10 + o * 2 ^ 12 + p * 2 ^ 16 + q * 2 ^ 24 := by
  rw [or_shiftLeft_eq_add 4 (by omega), or_shiftLeft_eq_add 7 (by omega), or_shiftLeft_eq_add 8 (by omega),
    or_shiftLeft_eq_add 10 (by omega), or_shiftLeft_eq_add 12 (by omega), or_shiftLeft_eq_add 16 (by omega),
    or_shiftLeft_eq_add 24 (by omega)]
  omega

/-- The row fits the field widths of DESC (10_state.md R30). -/
def Descriptor.Fits (d : Descriptor) : Prop :=
  d.depth < 16 ∧ d.ncomp < 8 ∧ d.groupPixels < 256 ∧ d.groupBytes < 256

theorem descRead_fits (t : Tag) : (descRead t).Fits := by
  refine ⟨?_, ?_, Nat.lt_succ_of_le (groupPixels_le t), Nat.lt_succ_of_le (groupBytes_le t)⟩ <;> cases t <;> decide

theorem Subsampling.code_lt (c : Subsampling) : c.code < 2 := by cases c <;> decide

theorem Endian.code_lt (e : Endian) : e.code < 4 := by cases e <;> decide

theorem ComponentOrder.code_lt (o : ComponentOrder) : o.code < 16 := by cases o <;> decide

/-- The descriptor word as a number, for a row that fits: no field overlaps another, and bit 11 is 0. -/
theorem encodeDesc_toNat {d : Descriptor} (h : d.Fits) :
    (encodeDesc d).toNat = d.depth + d.ncomp * 2 ^ 4 + d.subsamp.code * 2 ^ 7 + d.endian.code * 2 ^ 8
      + d.impl.toNat * 2 ^ 10 + d.order.code * 2 ^ 12 + d.groupPixels * 2 ^ 16 + d.groupBytes * 2 ^ 24 := by
  obtain ⟨h1, h2, h3, h4⟩ := h
  have h5 := d.subsamp.code_lt
  have h6 := d.endian.code_lt
  have h7 := d.order.code_lt
  have h8 := Bool.toNat_lt d.impl
  rw [encodeDesc, descFields_eq_sum h1 h2 h5 h6 h8 h7 h3, BitVec.toNat_ofNat, Nat.mod_eq_of_lt (by omega)]

end Sys2Proof.Machine
end

