-- ==== Sys2Proof/Laws/State.lean ====
section
/-! SUPPORT. One lemma per field per update of State, true by rfl (by both branches of an if), so that no proof unfolds a
record update. -/

namespace Sys2Proof.Machine

/-! ## Command start (R84) -/

@[simp] theorem State.start_params (s : State) (c : Word) : (s.start c).params = s.params := rfl
@[simp] theorem State.start_cmd (s : State) (c : Word) : (s.start c).cmd = c := rfl
@[simp] theorem State.start_status (s : State) (c : Word) : (s.start c).status = statusStarted := rfl
@[simp] theorem State.start_width (s : State) (c : Word) : (s.start c).width = s.width := rfl
@[simp] theorem State.start_height (s : State) (c : Word) : (s.start c).height = s.height := rfl
@[simp] theorem State.start_rowStride (s : State) (c : Word) : (s.start c).rowStride = s.rowStride := rfl
@[simp] theorem State.start_srcLen (s : State) (c : Word) : (s.start c).srcLen = s.srcLen := rfl
@[simp] theorem State.start_dstLen (s : State) (c : Word) : (s.start c).dstLen = s.dstLen := rfl
@[simp] theorem State.start_result (s : State) (c : Word) : (s.start c).result = s.result := rfl
@[simp] theorem State.start_desc (s : State) (c : Word) : (s.start c).desc = s.desc := rfl
@[simp] theorem State.start_descName (s : State) (c : Word) : (s.start c).descName = s.descName := rfl
@[simp] theorem State.start_src (s : State) (c : Word) : (s.start c).src = s.src := rfl
@[simp] theorem State.start_dst (s : State) (c : Word) : (s.start c).dst = s.dst := rfl
@[simp] theorem State.start_hazards (s : State) (c : Word) : (s.start c).hazards = .none := rfl
@[simp] theorem State.start_pending (s : State) (c : Word) : (s.start c).pending = s.pending := rfl
@[simp] theorem State.start_readData (s : State) (c : Word) : (s.start c).readData = s.readData := rfl
@[simp] theorem State.start_tick (s : State) (c : Word) : (s.start c).tick = s.tick := rfl

/-! ## Successful completion (R215) -/

@[simp] theorem State.completeOk_params (s : State) : (s.completeOk).params = s.params := rfl
@[simp] theorem State.completeOk_cmd (s : State) : (s.completeOk).cmd = s.cmd := rfl
@[simp] theorem State.completeOk_status (s : State) : (s.completeOk).status = statusOk := rfl
@[simp] theorem State.completeOk_width (s : State) : (s.completeOk).width = s.width := rfl
@[simp] theorem State.completeOk_height (s : State) : (s.completeOk).height = s.height := rfl
@[simp] theorem State.completeOk_rowStride (s : State) : (s.completeOk).rowStride = s.rowStride := rfl
@[simp] theorem State.completeOk_srcLen (s : State) : (s.completeOk).srcLen = s.srcLen := rfl
@[simp] theorem State.completeOk_dstLen (s : State) : (s.completeOk).dstLen = s.dstLen := rfl
@[simp] theorem State.completeOk_result (s : State) : (s.completeOk).result = s.result := rfl
@[simp] theorem State.completeOk_desc (s : State) : (s.completeOk).desc = s.desc := rfl
@[simp] theorem State.completeOk_descName (s : State) : (s.completeOk).descName = s.descName := rfl
@[simp] theorem State.completeOk_src (s : State) : (s.completeOk).src = s.src := rfl
@[simp] theorem State.completeOk_dst (s : State) : (s.completeOk).dst = s.dst := rfl
@[simp] theorem State.completeOk_hazards (s : State) : (s.completeOk).hazards = .none := rfl
@[simp] theorem State.completeOk_pending (s : State) : (s.completeOk).pending = s.pending := rfl
@[simp] theorem State.completeOk_readData (s : State) : (s.completeOk).readData = s.readData := rfl
@[simp] theorem State.completeOk_tick (s : State) : (s.completeOk).tick = s.tick + 1 := rfl

/-! ## Error completion (R216) -/

@[simp] theorem State.raise_params (s : State) (k : CommandKind) (e : ErrorCode) : (s.raise k e).params = s.params := rfl
@[simp] theorem State.raise_cmd (s : State) (k : CommandKind) (e : ErrorCode) : (s.raise k e).cmd = s.cmd := rfl
@[simp] theorem State.raise_status (s : State) (k : CommandKind) (e : ErrorCode) : (s.raise k e).status = statusError e := rfl
@[simp] theorem State.raise_width (s : State) (k : CommandKind) (e : ErrorCode) : (s.raise k e).width = s.width := rfl
@[simp] theorem State.raise_height (s : State) (k : CommandKind) (e : ErrorCode) : (s.raise k e).height = s.height := rfl
@[simp] theorem State.raise_rowStride (s : State) (k : CommandKind) (e : ErrorCode) : (s.raise k e).rowStride = s.rowStride := rfl
@[simp] theorem State.raise_srcLen (s : State) (k : CommandKind) (e : ErrorCode) : (s.raise k e).srcLen = s.srcLen := rfl
@[simp] theorem State.raise_dstLen (s : State) (k : CommandKind) (e : ErrorCode) : (s.raise k e).dstLen = s.dstLen := rfl
@[simp] theorem State.raise_result (s : State) (k : CommandKind) (e : ErrorCode) : (s.raise k e).result = s.result := rfl
@[simp] theorem State.raise_desc (s : State) (k : CommandKind) (e : ErrorCode) : (s.raise k e).desc = s.desc := rfl
@[simp] theorem State.raise_descName (s : State) (k : CommandKind) (e : ErrorCode) : (s.raise k e).descName = s.descName := rfl
@[simp] theorem State.raise_src (s : State) (k : CommandKind) (e : ErrorCode) : (s.raise k e).src = s.src := rfl
@[simp] theorem State.raise_dst (s : State) (k : CommandKind) (e : ErrorCode) : (s.raise k e).dst = s.dstAfterFailure k := rfl
@[simp] theorem State.raise_hazards (s : State) (k : CommandKind) (e : ErrorCode) : (s.raise k e).hazards = .none := rfl
@[simp] theorem State.raise_pending (s : State) (k : CommandKind) (e : ErrorCode) : (s.raise k e).pending = s.pending := rfl
@[simp] theorem State.raise_readData (s : State) (k : CommandKind) (e : ErrorCode) : (s.raise k e).readData = s.readData := rfl
@[simp] theorem State.raise_tick (s : State) (k : CommandKind) (e : ErrorCode) : (s.raise k e).tick = s.tick + 1 := rfl

/-! ## Reset (R36, R242) -/

@[simp] theorem State.applyReset_params (s : State) : (s.applyReset).params = s.params := rfl
@[simp] theorem State.applyReset_cmd (s : State) : (s.applyReset).cmd = 0 := rfl
@[simp] theorem State.applyReset_status (s : State) : (s.applyReset).status = 0 := rfl
@[simp] theorem State.applyReset_width (s : State) : (s.applyReset).width = 0 := rfl
@[simp] theorem State.applyReset_height (s : State) : (s.applyReset).height = 0 := rfl
@[simp] theorem State.applyReset_rowStride (s : State) : (s.applyReset).rowStride = 0 := rfl
@[simp] theorem State.applyReset_srcLen (s : State) : (s.applyReset).srcLen = 0 := rfl
@[simp] theorem State.applyReset_dstLen (s : State) : (s.applyReset).dstLen = 0 := rfl
@[simp] theorem State.applyReset_result (s : State) : (s.applyReset).result = 0 := rfl
@[simp] theorem State.applyReset_desc (s : State) : (s.applyReset).desc = 0 := rfl
@[simp] theorem State.applyReset_descName (s : State) : (s.applyReset).descName = 0 := rfl
@[simp] theorem State.applyReset_src (s : State) : (s.applyReset).src = s.src := rfl
@[simp] theorem State.applyReset_dst (s : State) : (s.applyReset).dst = if s.busy && isPackWord s.cmd then s.dstAfterFailure .pack else s.dst := rfl
@[simp] theorem State.applyReset_hazards (s : State) : (s.applyReset).hazards = .none := rfl
@[simp] theorem State.applyReset_pending (s : State) : (s.applyReset).pending = s.pending := rfl
@[simp] theorem State.applyReset_readData (s : State) : (s.applyReset).readData = s.readData := rfl
@[simp] theorem State.applyReset_tick (s : State) : (s.applyReset).tick = s.tick + 1 := rfl

/-! ## A started command with the converter's turn next -/

@[simp] theorem State.launch_params (s : State) (c : Word) : (s.launch c).params = s.params := rfl
@[simp] theorem State.launch_cmd (s : State) (c : Word) : (s.launch c).cmd = c := rfl
@[simp] theorem State.launch_status (s : State) (c : Word) : (s.launch c).status = statusStarted := rfl
@[simp] theorem State.launch_width (s : State) (c : Word) : (s.launch c).width = s.width := rfl
@[simp] theorem State.launch_height (s : State) (c : Word) : (s.launch c).height = s.height := rfl
@[simp] theorem State.launch_rowStride (s : State) (c : Word) : (s.launch c).rowStride = s.rowStride := rfl
@[simp] theorem State.launch_srcLen (s : State) (c : Word) : (s.launch c).srcLen = s.srcLen := rfl
@[simp] theorem State.launch_dstLen (s : State) (c : Word) : (s.launch c).dstLen = s.dstLen := rfl
@[simp] theorem State.launch_result (s : State) (c : Word) : (s.launch c).result = s.result := rfl
@[simp] theorem State.launch_desc (s : State) (c : Word) : (s.launch c).desc = s.desc := rfl
@[simp] theorem State.launch_descName (s : State) (c : Word) : (s.launch c).descName = s.descName := rfl
@[simp] theorem State.launch_src (s : State) (c : Word) : (s.launch c).src = s.src := rfl
@[simp] theorem State.launch_dst (s : State) (c : Word) : (s.launch c).dst = s.dst := rfl
@[simp] theorem State.launch_hazards (s : State) (c : Word) : (s.launch c).hazards = .none := rfl
@[simp] theorem State.launch_pending (s : State) (c : Word) : (s.launch c).pending = .converter :: s.pending := rfl
@[simp] theorem State.launch_readData (s : State) (c : Word) : (s.launch c).readData = s.readData := rfl
@[simp] theorem State.launch_tick (s : State) (c : Word) : (s.launch c).tick = s.tick := rfl

/-! ## Host writes to the buffers (R246, R247) -/

@[simp] theorem State.hostWriteSrc_params (s : State) (i : Nat) (v : Sample) : (s.hostWriteSrc i v).params = s.params := rfl
@[simp] theorem State.hostWriteSrc_cmd (s : State) (i : Nat) (v : Sample) : (s.hostWriteSrc i v).cmd = s.cmd := rfl
@[simp] theorem State.hostWriteSrc_status (s : State) (i : Nat) (v : Sample) : (s.hostWriteSrc i v).status = s.status := rfl
@[simp] theorem State.hostWriteSrc_width (s : State) (i : Nat) (v : Sample) : (s.hostWriteSrc i v).width = s.width := rfl
@[simp] theorem State.hostWriteSrc_height (s : State) (i : Nat) (v : Sample) : (s.hostWriteSrc i v).height = s.height := rfl
@[simp] theorem State.hostWriteSrc_rowStride (s : State) (i : Nat) (v : Sample) : (s.hostWriteSrc i v).rowStride = s.rowStride := rfl
@[simp] theorem State.hostWriteSrc_srcLen (s : State) (i : Nat) (v : Sample) : (s.hostWriteSrc i v).srcLen = s.srcLen := rfl
@[simp] theorem State.hostWriteSrc_dstLen (s : State) (i : Nat) (v : Sample) : (s.hostWriteSrc i v).dstLen = s.dstLen := rfl
@[simp] theorem State.hostWriteSrc_result (s : State) (i : Nat) (v : Sample) : (s.hostWriteSrc i v).result = s.result := rfl
@[simp] theorem State.hostWriteSrc_desc (s : State) (i : Nat) (v : Sample) : (s.hostWriteSrc i v).desc = s.desc := rfl
@[simp] theorem State.hostWriteSrc_descName (s : State) (i : Nat) (v : Sample) : (s.hostWriteSrc i v).descName = s.descName := rfl
@[simp] theorem State.hostWriteSrc_dst (s : State) (i : Nat) (v : Sample) : (s.hostWriteSrc i v).dst = s.dst := rfl
@[simp] theorem State.hostWriteSrc_pending (s : State) (i : Nat) (v : Sample) : (s.hostWriteSrc i v).pending = s.pending := rfl
@[simp] theorem State.hostWriteSrc_readData (s : State) (i : Nat) (v : Sample) : (s.hostWriteSrc i v).readData = s.readData := rfl
@[simp] theorem State.hostWriteSrc_tick (s : State) (i : Nat) (v : Sample) : (s.hostWriteSrc i v).tick = s.tick := rfl
@[simp] theorem State.hostWriteSrc_src (s : State) (i : Nat) (v : Sample) : (s.hostWriteSrc i v).src = s.src.write i v := rfl
@[simp] theorem State.hostWriteDst_params (s : State) (a : Nat) (v : Byte) : (s.hostWriteDst a v).params = s.params := rfl
@[simp] theorem State.hostWriteDst_cmd (s : State) (a : Nat) (v : Byte) : (s.hostWriteDst a v).cmd = s.cmd := rfl
@[simp] theorem State.hostWriteDst_status (s : State) (a : Nat) (v : Byte) : (s.hostWriteDst a v).status = s.status := rfl
@[simp] theorem State.hostWriteDst_width (s : State) (a : Nat) (v : Byte) : (s.hostWriteDst a v).width = s.width := rfl
@[simp] theorem State.hostWriteDst_height (s : State) (a : Nat) (v : Byte) : (s.hostWriteDst a v).height = s.height := rfl
@[simp] theorem State.hostWriteDst_rowStride (s : State) (a : Nat) (v : Byte) : (s.hostWriteDst a v).rowStride = s.rowStride := rfl
@[simp] theorem State.hostWriteDst_srcLen (s : State) (a : Nat) (v : Byte) : (s.hostWriteDst a v).srcLen = s.srcLen := rfl
@[simp] theorem State.hostWriteDst_dstLen (s : State) (a : Nat) (v : Byte) : (s.hostWriteDst a v).dstLen = s.dstLen := rfl
@[simp] theorem State.hostWriteDst_result (s : State) (a : Nat) (v : Byte) : (s.hostWriteDst a v).result = s.result := rfl
@[simp] theorem State.hostWriteDst_desc (s : State) (a : Nat) (v : Byte) : (s.hostWriteDst a v).desc = s.desc := rfl
@[simp] theorem State.hostWriteDst_descName (s : State) (a : Nat) (v : Byte) : (s.hostWriteDst a v).descName = s.descName := rfl
@[simp] theorem State.hostWriteDst_src (s : State) (a : Nat) (v : Byte) : (s.hostWriteDst a v).src = s.src := rfl
@[simp] theorem State.hostWriteDst_pending (s : State) (a : Nat) (v : Byte) : (s.hostWriteDst a v).pending = s.pending := rfl
@[simp] theorem State.hostWriteDst_readData (s : State) (a : Nat) (v : Byte) : (s.hostWriteDst a v).readData = s.readData := rfl
@[simp] theorem State.hostWriteDst_tick (s : State) (a : Nat) (v : Byte) : (s.hostWriteDst a v).tick = s.tick := rfl
@[simp] theorem State.hostWriteDst_dst (s : State) (a : Nat) (v : Byte) : (s.hostWriteDst a v).dst = s.dst.write a v := rfl
@[simp] theorem State.hostWriteSrc_hazards (s : State) (i : Nat) (v : Sample) : (s.hostWriteSrc i v).hazards =
    if s.busy then { s.hazards with stale := (i, s.src.read i) :: s.hazards.stale } else s.hazards := rfl
@[simp] theorem State.hostWriteDst_hazards (s : State) (a : Nat) (v : Byte) : (s.hostWriteDst a v).hazards =
    if s.busy then { s.hazards with touched := a :: s.hazards.touched } else s.hazards := rfl

/-! ## A host read of DST (R246) -/

@[simp] theorem State.hostReadDst_params (s : State) (a : Nat) : (s.hostReadDst a).params = s.params := by
  unfold State.hostReadDst; split <;> rfl
@[simp] theorem State.hostReadDst_cmd (s : State) (a : Nat) : (s.hostReadDst a).cmd = s.cmd := by
  unfold State.hostReadDst; split <;> rfl
@[simp] theorem State.hostReadDst_status (s : State) (a : Nat) : (s.hostReadDst a).status = s.status := by
  unfold State.hostReadDst; split <;> rfl
@[simp] theorem State.hostReadDst_width (s : State) (a : Nat) : (s.hostReadDst a).width = s.width := by
  unfold State.hostReadDst; split <;> rfl
@[simp] theorem State.hostReadDst_height (s : State) (a : Nat) : (s.hostReadDst a).height = s.height := by
  unfold State.hostReadDst; split <;> rfl
@[simp] theorem State.hostReadDst_rowStride (s : State) (a : Nat) : (s.hostReadDst a).rowStride = s.rowStride := by
  unfold State.hostReadDst; split <;> rfl
@[simp] theorem State.hostReadDst_srcLen (s : State) (a : Nat) : (s.hostReadDst a).srcLen = s.srcLen := by
  unfold State.hostReadDst; split <;> rfl
@[simp] theorem State.hostReadDst_dstLen (s : State) (a : Nat) : (s.hostReadDst a).dstLen = s.dstLen := by
  unfold State.hostReadDst; split <;> rfl
@[simp] theorem State.hostReadDst_result (s : State) (a : Nat) : (s.hostReadDst a).result = s.result := by
  unfold State.hostReadDst; split <;> rfl
@[simp] theorem State.hostReadDst_desc (s : State) (a : Nat) : (s.hostReadDst a).desc = s.desc := by
  unfold State.hostReadDst; split <;> rfl
@[simp] theorem State.hostReadDst_descName (s : State) (a : Nat) : (s.hostReadDst a).descName = s.descName := by
  unfold State.hostReadDst; split <;> rfl
@[simp] theorem State.hostReadDst_src (s : State) (a : Nat) : (s.hostReadDst a).src = s.src := by
  unfold State.hostReadDst; split <;> rfl
@[simp] theorem State.hostReadDst_dst (s : State) (a : Nat) : (s.hostReadDst a).dst = s.dst := by
  unfold State.hostReadDst; split <;> rfl
@[simp] theorem State.hostReadDst_hazards (s : State) (a : Nat) : (s.hostReadDst a).hazards = s.hazards := by
  unfold State.hostReadDst; split <;> rfl
@[simp] theorem State.hostReadDst_pending (s : State) (a : Nat) : (s.hostReadDst a).pending = s.pending := by
  unfold State.hostReadDst; split <;> rfl

/-! ## DST after a failure (R216) -/

@[simp] theorem State.dstAfterFailure_pack (s : State) : s.dstAfterFailure .pack = s.dst.lose 0 s.opDstLen s.tick := rfl
@[simp] theorem State.dstAfterFailure_other (s : State) : s.dstAfterFailure .other = s.dst := rfl

/-! ## STATUS words (R28, R84, R215, R216) -/

@[simp] theorem statusStarted_eq : statusStarted = 0x01 := by decide
@[simp] theorem statusOk_eq : statusOk = 0x02 := by decide
@[simp] theorem statusError_unsupportedFormat : statusError .unsupportedFormat = 0x16 := by decide
@[simp] theorem statusError_invalidDimension : statusError .invalidDimension = 0x26 := by decide
@[simp] theorem statusError_bufferTooSmall : statusError .bufferTooSmall = 0x36 := by decide
@[simp] theorem statusError_sourceSizeMismatch : statusError .sourceSizeMismatch = 0x46 := by decide
@[simp] theorem statusError_illegalCommand : statusError .illegalCommand = 0x56 := by decide

/-- STATUS holds the fields it is made from, whatever they are. -/
theorem statusWord_fields (b d e : Bool) (c : BitVec 4) :
    (statusWord b d e c).getLsbD 0 = b ∧ (statusWord b d e c).getLsbD 1 = d ∧ (statusWord b d e c).getLsbD 2 = e
      ∧ (statusWord b d e c).extractLsb' 4 4 = c := by
  revert b d e c; decide

@[simp] theorem State.busy_start (s : State) (c : Word) : (s.start c).busy = true := (statusWord_fields _ _ _ _).1
@[simp] theorem State.busy_launch (s : State) (c : Word) : (s.launch c).busy = true := (statusWord_fields _ _ _ _).1
@[simp] theorem State.busy_completeOk (s : State) : s.completeOk.busy = false := (statusWord_fields _ _ _ _).1
@[simp] theorem State.busy_raise (s : State) (k : CommandKind) (e : ErrorCode) : (s.raise k e).busy = false :=
  (statusWord_fields _ _ _ _).1
@[simp] theorem State.busy_applyReset (s : State) : s.applyReset.busy = false := by simp [State.busy]
@[simp] theorem State.done_completeOk (s : State) : s.completeOk.done = true := (statusWord_fields _ _ _ _).2.1
@[simp] theorem State.done_raise (s : State) (k : CommandKind) (e : ErrorCode) : (s.raise k e).done = true :=
  (statusWord_fields _ _ _ _).2.1
@[simp] theorem State.err_completeOk (s : State) : s.completeOk.err = false := (statusWord_fields _ _ _ _).2.2.1
@[simp] theorem State.err_raise (s : State) (k : CommandKind) (e : ErrorCode) : (s.raise k e).err = true :=
  (statusWord_fields _ _ _ _).2.2.1
@[simp] theorem State.code_completeOk (s : State) : s.completeOk.code = 0 := (statusWord_fields _ _ _ _).2.2.2
@[simp] theorem State.code_raise (s : State) (k : CommandKind) (e : ErrorCode) : (s.raise k e).code = e.code :=
  (statusWord_fields _ _ _ _).2.2.2

/-! ## Taking an event off the list changes no flag and no operand -/

@[simp] theorem State.busy_pending (s : State) (l : List Event) : State.busy { s with pending := l } = s.busy := rfl
@[simp] theorem State.done_pending (s : State) (l : List Event) : State.done { s with pending := l } = s.done := rfl
@[simp] theorem State.err_pending (s : State) (l : List Event) : State.err { s with pending := l } = s.err := rfl
@[simp] theorem State.opDstLen_pending (s : State) (l : List Event) :
    State.opDstLen { s with pending := l } = s.opDstLen := rfl

end Sys2Proof.Machine
end

