-- ==== Sys2Proof/Laws/Memory.lean ====
section
/-! SUPPORT. SRC and DST: what a read gives after each operation, and that every operation keeps the canonical form. -/

namespace Sys2Proof.Machine

/-! ## Lists of address and value pairs -/

section Sparse
variable {α : Type}

@[simp] theorem Sparse.lookup_nil (a : Nat) : Sparse.lookup ([] : List (Nat × α)) a = none := rfl

theorem Sparse.lookup_cons (b : Nat) (x : α) (t : List (Nat × α)) (a : Nat) :
    Sparse.lookup ((b, x) :: t) a = if b = a then some x else Sparse.lookup t a := rfl

theorem Sparse.lookup_insert (l : List (Nat × α)) (a c : Nat) (v : α) :
    Sparse.lookup (Sparse.insert a v l) c = if a = c then some v else Sparse.lookup l c := by
  induction l with
  | nil => simp [Sparse.insert, Sparse.lookup_cons]
  | cons d t ih =>
    obtain ⟨b, x⟩ := d
    simp only [Sparse.insert]
    split
    · rw [Sparse.lookup_cons]
    · split
      · next h => subst h; simp only [Sparse.lookup_cons]; split <;> rfl
      · next _ h =>
        rw [Sparse.lookup_cons, ih, Sparse.lookup_cons]
        by_cases h1 : b = c <;> by_cases h2 : a = c <;> simp_all

theorem Sparse.lookup_filter (l : List (Nat × α)) (p : Nat → Bool) (c : Nat) :
    Sparse.lookup (l.filter (fun d => p d.1)) c = if p c then Sparse.lookup l c else none := by
  induction l with
  | nil => simp
  | cons d t ih =>
    obtain ⟨b, x⟩ := d
    rw [List.filter_cons]
    by_cases hb : p b
    · rw [if_pos hb, Sparse.lookup_cons, ih, Sparse.lookup_cons]
      by_cases h1 : b = c
      · subst h1; simp [hb]
      · simp [h1]
    · rw [if_neg hb, ih, Sparse.lookup_cons]
      by_cases h1 : b = c
      · subst h1; simp [hb]
      · simp [h1]

theorem Sparse.lookup_erase (l : List (Nat × α)) (a c : Nat) :
    Sparse.lookup (Sparse.erase a l) c = if a = c then none else Sparse.lookup l c := by
  rw [Sparse.erase, Sparse.lookup_filter l (fun b => b != a) c]
  by_cases h : a = c
  · simp [h]
  · simp [h, Ne.symm h]

theorem Sparse.mem_insert {l : List (Nat × α)} {a : Nat} {v : α} {d : Nat × α} (h : d ∈ Sparse.insert a v l) :
    d = (a, v) ∨ d ∈ l := by
  induction l with
  | nil => simpa [Sparse.insert] using h
  | cons e t ih =>
    obtain ⟨b, x⟩ := e
    simp only [Sparse.insert] at h
    split at h
    · simpa using h
    · split at h
      · rcases List.mem_cons.1 h with h | h
        · exact .inl h
        · exact .inr (List.mem_cons_of_mem _ h)
      · rcases List.mem_cons.1 h with h | h
        · exact .inr (h ▸ List.mem_cons_self)
        · exact (ih h).imp_right (List.mem_cons_of_mem _)

theorem Sparse.rising_cons {c : Nat × α} {t : List (Nat × α)} :
    Sparse.rising (c :: t) = true ↔ (∀ d ∈ t, c.1 < d.1) ∧ Sparse.rising t = true := by
  simp [Sparse.rising, List.all_eq_true]

theorem Sparse.rising_insert {l : List (Nat × α)} (a : Nat) (v : α) (h : Sparse.rising l = true) :
    Sparse.rising (Sparse.insert a v l) = true := by
  induction l with
  | nil => rfl
  | cons d t ih =>
    obtain ⟨b, x⟩ := d
    obtain ⟨hb, ht⟩ := Sparse.rising_cons.1 h
    simp only [Sparse.insert]
    split
    · next hab =>
      refine Sparse.rising_cons.2 ⟨fun d hd => ?_, h⟩
      rcases List.mem_cons.1 hd with hd | hd
      · subst hd; exact hab
      · exact hab.trans (hb d hd)
    · split
      · next hab => subst hab; exact Sparse.rising_cons.2 ⟨hb, ht⟩
      · next h1 h2 =>
        refine Sparse.rising_cons.2 ⟨fun d hd => ?_, ih ht⟩
        rcases Sparse.mem_insert hd with hd | hd
        · subst hd; exact lt_of_le_of_ne (Nat.le_of_not_lt h1) (fun e => h2 e.symm)
        · exact hb d hd

theorem Sparse.rising_filter {l : List (Nat × α)} (p : Nat × α → Bool) (h : Sparse.rising l = true) :
    Sparse.rising (l.filter p) = true := by
  induction l with
  | nil => rfl
  | cons d t ih =>
    obtain ⟨hd, ht⟩ := Sparse.rising_cons.1 h
    rw [List.filter_cons]
    split
    · exact Sparse.rising_cons.2 ⟨fun e he => hd e (List.mem_of_mem_filter he), ih ht⟩
    · exact ih ht

end Sparse

/-! ## SRC -/

/-- A read of SRC gives the sample written last (20_memory.md R50). -/
@[simp] theorem Samples.read_write (m : Samples) (i j : Nat) (v : Sample) :
    (m.write i v).read j = if i = j then v else m.read j := by
  simp only [Samples.read, Samples.write]
  split
  · next h => rw [Sparse.lookup_erase]; by_cases hij : i = j <;> simp [hij, h]
  · rw [Sparse.lookup_insert]; by_cases hij : i = j <;> simp [hij]

theorem Samples.wf_write {m : Samples} (i : Nat) (v : Sample) (h : m.wf = true) : (m.write i v).wf = true := by
  simp only [Samples.wf, Bool.and_eq_true, List.all_eq_true] at h ⊢
  simp only [Samples.write]
  split
  · exact ⟨Sparse.rising_filter _ h.1, fun d hd => h.2 d (List.mem_of_mem_filter hd)⟩
  · next hv =>
    refine ⟨Sparse.rising_insert i v h.1, fun d hd => ?_⟩
    rcases Sparse.mem_insert hd with hd | hd
    · subst hd; simpa using hv
    · exact h.2 d hd

/-! ## DST -/

@[simp] theorem Memory.lost_write (m : Memory) (a : Nat) (v : Byte) : (m.write a v).lost = m.lost := by
  unfold Memory.write; split <;> rfl

@[simp] theorem Memory.covered_write (m : Memory) (a c : Nat) (v : Byte) : (m.write a v).covered c = m.covered c := by
  simp [Memory.covered]

@[simp] theorem Memory.unlisted_write (m : Memory) (a c : Nat) (v : Byte) :
    (m.write a v).unlisted c = m.unlisted c := by
  simp [Memory.unlisted]

theorem Memory.unlisted_of_not_covered {m : Memory} {a : Nat} (h : m.covered a = false) :
    m.unlisted a = unwrittenByte := by
  have : m.lost.find? (fun r => r.covers a) = none := by
    simpa [Memory.covered] using h
  simp [Memory.unlisted, this]

/-- A read of DST gives the byte stored last, and every other address reads as before (20_memory.md R60). -/
@[simp] theorem Memory.read_write (m : Memory) (a c : Nat) (v : Byte) :
    (m.write a v).read c = if a = c then v else m.read c := by
  rw [Memory.read, Memory.unlisted_write]
  by_cases h : (!m.covered a && v == unwrittenByte) = true
  · rw [Memory.write, if_pos h, Sparse.lookup_erase]
    simp only [Bool.and_eq_true, Bool.not_eq_true', beq_iff_eq] at h
    by_cases hac : a = c
    · subst hac; simp [Memory.unlisted_of_not_covered h.1, h.2]
    · simp [hac, Memory.read]
  · rw [Memory.write, if_neg h, Sparse.lookup_insert]
    by_cases hac : a = c <;> simp [hac, Memory.read]

theorem Memory.wf_iff {m : Memory} : m.wf = true ↔
    Sparse.rising m.cells = true ∧ (∀ c ∈ m.cells, m.covered c.1 = true ∨ c.2 ≠ unwrittenByte)
      ∧ ∀ r ∈ m.lost, r.lo < r.hi := by
  simp [Memory.wf, List.all_eq_true, and_assoc]

theorem Memory.wf_write {m : Memory} (a : Nat) (v : Byte) (h : m.wf = true) : (m.write a v).wf = true := by
  obtain ⟨h1, h2, h3⟩ := Memory.wf_iff.1 h
  refine Memory.wf_iff.2 ⟨?_, fun c hc => ?_, by simpa using h3⟩
  · unfold Memory.write; split
    · exact Sparse.rising_filter _ h1
    · exact Sparse.rising_insert a v h1
  · rw [Memory.covered_write]
    unfold Memory.write at hc
    split at hc
    · exact h2 c (List.mem_of_mem_filter hc)
    · next hn =>
      rcases Sparse.mem_insert hc with hc | hc
      · subst hc
        by_cases hcov : m.covered a = true
        · exact .inl hcov
        · exact .inr (by simpa [hcov] using hn)
      · exact h2 c hc

/-- Reading after MemWrite (00_scope.md R11): byte `i` of the list at `a + i`, every other address as before. -/
theorem Memory.read_writeBytes (m : Memory) (a c : Nat) (bs : List Byte) :
    (m.writeBytes a bs).read c = if a ≤ c ∧ c < a + bs.length then bs.getD (c - a) 0 else m.read c := by
  induction bs generalizing a with
  | nil =>
    have : ¬ (a ≤ c ∧ c < a + ([] : List Byte).length) := by simp
    rw [if_neg this]; rfl
  | cons b bs ih =>
    simp only [Memory.writeBytes, Memory.read_write, ih, List.length_cons]
    by_cases h : a = c
    · subst h; simp
    · by_cases h2 : a + 1 ≤ c ∧ c < a + 1 + bs.length
      · rw [if_neg h, if_pos h2, if_pos (by omega)]
        obtain ⟨k, hk⟩ : ∃ k, c - a = k + 1 := ⟨c - a - 1, by omega⟩
        rw [hk, List.getD_cons_succ]
        congr 1; omega
      · rw [if_neg h, if_neg h2, if_neg (by omega)]

theorem Memory.wf_writeBytes {m : Memory} (a : Nat) (bs : List Byte) (h : m.wf = true) :
    (m.writeBytes a bs).wf = true := by
  induction bs generalizing a with
  | nil => exact h
  | cons b bs ih => exact Memory.wf_write _ _ (ih (a + 1))

@[simp] theorem Memory.lost_writeBytes (m : Memory) (a : Nat) (bs : List Byte) : (m.writeBytes a bs).lost = m.lost := by
  induction bs generalizing a with
  | nil => rfl
  | cons b bs ih => simp [Memory.writeBytes, ih]

/-- A range made unspecified reads as its free bytes, every other address as before (60_exceptions.md R216). -/
theorem Memory.read_lose (m : Memory) (lo hi id a : Nat) :
    (m.lose lo hi id).read a = if lo ≤ a ∧ a < hi then Config.freeByte id a else m.read a := by
  unfold Memory.lose
  split
  · next hlt =>
    simp only [Memory.read, Memory.unlisted]
    rw [Sparse.lookup_filter m.cells (fun c => !decide (lo ≤ c ∧ c < hi)) a, List.find?_cons]
    by_cases h : lo ≤ a ∧ a < hi
    · simp [Lost.covers, h]
    · simp only [Lost.covers, h, decide_false, Bool.not_false, if_true, if_false]
      cases hl : Sparse.lookup m.cells a with
      | some b => rfl
      | none =>
        simp only
        congr 1
        rw [List.find?_filter]
        congr 1
        funext r
        by_cases hr : r.lo ≤ a ∧ a < r.hi
        · have : ¬ (lo ≤ r.lo ∧ r.hi ≤ hi) := by omega
          simp [hr, this]
        · simp [hr]
  · rw [if_neg (by omega)]

@[simp] theorem Memory.lose_nothing (m : Memory) (lo id : Nat) : m.lose lo lo id = m := by
  simp [Memory.lose]

theorem Memory.mem_lost_lose {m : Memory} {lo hi id : Nat} {r : Lost} (h : r ∈ (m.lose lo hi id).lost) :
    r ∈ m.lost ∨ r = ⟨lo, hi, id⟩ := by
  unfold Memory.lose at h
  split at h
  · rcases List.mem_cons.1 h with h | h
    · exact .inr h
    · exact .inl (List.mem_of_mem_filter h)
  · exact .inl h

theorem Memory.wf_lose {m : Memory} (lo hi id : Nat) (h : m.wf = true) : (m.lose lo hi id).wf = true := by
  obtain ⟨h1, h2, h3⟩ := Memory.wf_iff.1 h
  unfold Memory.lose
  split
  · next hlt =>
    refine Memory.wf_iff.2 ⟨Sparse.rising_filter _ h1, fun c hc => ?_, fun r hr => ?_⟩
    · obtain ⟨hc1, hc2⟩ := List.mem_filter.1 hc
      rcases h2 c hc1 with hcov | hne
      · left
        obtain ⟨r, hr, hrc⟩ := List.any_eq_true.1 hcov
        refine List.any_eq_true.2 ⟨r, List.mem_cons_of_mem _ (List.mem_filter.2 ⟨hr, ?_⟩), hrc⟩
        simp only [Lost.covers, decide_eq_true_eq, Bool.not_eq_true', decide_eq_false_iff_not] at hrc hc2 ⊢
        omega
      · exact .inr hne
    · rcases List.mem_cons.1 hr with hr | hr
      · subst hr; exact hlt
      · exact h3 r (List.mem_of_mem_filter hr)
  · exact h

theorem State.wf_dstAfterFailure {s : State} (k : CommandKind) (h : s.dst.wf = true) :
    (s.dstAfterFailure k).wf = true := by
  cases k
  · exact Memory.wf_lose _ _ _ h
  · exact h

theorem State.read_dstAfterFailure {s : State} (k : CommandKind) {a : Nat} (h : s.opDstLen ≤ a) :
    (s.dstAfterFailure k).read a = s.dst.read a := by
  cases k
  · rw [State.dstAfterFailure_pack, Memory.read_lose, if_neg (by omega)]
  · rfl

end Sys2Proof.Machine
end

