-- ==== Sys2Proof/Laws/Pack.lean ====
section
/-! SUPPORT. What PACK does, said once: when its checks pass, what each byte of DST reads after it, and that the order of rows
and groups does not matter. -/

namespace Sys2Proof.Machine

/-! ## Group functions give the bytes of a group (44_bit_packer.md R150) -/

@[simp] theorem packGroupRgb8_length (sl : Slots) : (packGroupRgb8 sl).length = 3 := rfl
@[simp] theorem packGroupArgb8_length (sl : Slots) : (packGroupArgb8 sl).length = 4 := rfl
@[simp] theorem packGroupBgra8_length (sl : Slots) : (packGroupBgra8 sl).length = 4 := rfl
@[simp] theorem packGroupRgb10_length (sl : Slots) : (packGroupRgb10 sl).length = 4 := rfl
@[simp] theorem packGroupRgb12Be_length (sl : Slots) : (packGroupRgb12Be sl).length = 9 := rfl
@[simp] theorem packGroupRgb12Le_length (sl : Slots) : (packGroupRgb12Le sl).length = 9 := rfl
@[simp] theorem packGroupYuv8_422_length (c : Parameters) (sl : Slots) : (packGroupYuv8_422 c sl).length = 4 := rfl
@[simp] theorem packGroupYuv10_422_length (c : Parameters) (sl : Slots) : (packGroupYuv10_422 c sl).length = 16 := rfl

/-! ## When the checks pass -/

/-- The checks of R180 pass exactly on an implemented tag with ready operands. -/
theorem State.packCheck_eq_none {s : State} {d : Descriptor} :
    s.packCheck d = none ↔ d.impl = true ∧ s.PackReady d.groupPixels d.groupBytes := by
  unfold State.packCheck State.PackReady minStride
  cases d.impl
  · simp
  · simp only [Bool.not_true, Bool.false_eq_true, if_false, true_and]
    split
    · simp; omega
    · split
      · simp; omega
      · split
        · simp; omega
        · split
          · simp; omega
          · simp; omega

/-! ## The samples a group sees -/

/-- With no host write to SRC while the command runs, a use sees the sample (R247). -/
@[simp] theorem State.useSample_of_no_stale {s : State} (h : s.hazards.stale = []) (a use i : Nat) :
    s.useSample a use i = s.src.read i := by
  simp [State.useSample, h]

/-- With no host write to SRC while the command runs, slot `k` of group `g` is the pixel of its column (R151). -/
theorem State.slots_of_no_stale {s : State} (h : s.hazards.stale = []) (gp y g a k use : Nat) :
    s.slots gp y g a k use = s.slotPixel y (g * gp + k) := by
  simp [State.slots, State.slotPixel, State.pixelAt, sampleIndex, h]

/-! ## Which byte a successful PACK leaves at an address -/

/-- The byte PACK gives DST address `c`: byte `c % RS % GB` of group `c % RS / GB` of row `c / RS` (20_memory.md R53). -/
def State.packedByte (s : State) (d : Descriptor) (packGroup : Slots → List Byte) (c : Nat) : Byte :=
  (packGroup (s.slots d.groupPixels (c / s.opRowStride) (c % s.opRowStride / d.groupBytes) c)).getD
    (c % s.opRowStride % d.groupBytes) 0

@[simp] theorem State.groupBytes_length (s : State) (d : Descriptor) (pg : Slots → List Byte) (y g : Nat) :
    (s.groupBytes d pg y g).length = d.groupBytes := by
  simp [State.groupBytes]

theorem State.groupBytes_getD {s : State} {d : Descriptor} {pg : Slots → List Byte} {y g j : Nat}
    (hj : j < d.groupBytes) :
    (s.groupBytes d pg y g).getD j 0 =
      (pg (s.slots d.groupPixels y g (groupAddress s.opRowStride d.groupBytes y g + j))).getD j 0 := by
  rw [List.getD_eq_getElem _ _ (by simpa using hj)]
  simp [State.groupBytes]

/-- A row's groups (R53): an address `k` bytes into the row belongs to group `k / GB`. -/
theorem State.read_packRow {s : State} {d : Descriptor} {pg : Slots → List Byte} (hgb : 0 < d.groupBytes)
    (gs : List Nat) (y : Nat) (m : Memory) (c : Nat) :
    (s.packRow d pg gs y m).read c =
      if y * s.opRowStride ≤ c ∧ (c - y * s.opRowStride) / d.groupBytes ∈ gs then
        (pg (s.slots d.groupPixels y ((c - y * s.opRowStride) / d.groupBytes) c)).getD
          ((c - y * s.opRowStride) % d.groupBytes) 0
      else m.read c := by
  induction gs with
  | nil => simp [State.packRow]
  | cons g gs ih =>
    have hstep : s.packRow d pg (g :: gs) y m = s.packOne d pg (s.packRow d pg gs y m) y g := rfl
    rw [hstep, State.packOne, Memory.read_writeBytes, ih, State.groupBytes_length]
    by_cases hin : groupAddress s.opRowStride d.groupBytes y g ≤ c
        ∧ c < groupAddress s.opRowStride d.groupBytes y g + d.groupBytes
    · rw [if_pos hin]
      unfold groupAddress at hin
      obtain ⟨k, hk⟩ : ∃ k, c = y * s.opRowStride + g * d.groupBytes + k := ⟨c - (y * s.opRowStride + g * d.groupBytes), by omega⟩
      have hkl : k < d.groupBytes := by omega
      have hsub : c - y * s.opRowStride = k + d.groupBytes * g := by rw [hk, Nat.mul_comm g]; omega
      have hdiv : (c - y * s.opRowStride) / d.groupBytes = g := by
        rw [hsub, Nat.add_mul_div_left _ _ hgb, Nat.div_eq_of_lt hkl, Nat.zero_add]
      have hmod : (c - y * s.opRowStride) % d.groupBytes = k := by
        rw [hsub, Nat.add_mul_mod_self_left, Nat.mod_eq_of_lt hkl]
      rw [if_pos ⟨by omega, by rw [hdiv]; exact List.mem_cons_self⟩, hdiv, hmod]
      have : c - groupAddress s.opRowStride d.groupBytes y g = k := by unfold groupAddress; omega
      rw [this, State.groupBytes_getD hkl]
      congr 3
      unfold groupAddress; omega
    · rw [if_neg hin]
      unfold groupAddress at hin
      by_cases hle : y * s.opRowStride ≤ c
      · have hne : (c - y * s.opRowStride) / d.groupBytes ≠ g := by
          intro hg
          have h1 := Nat.div_mul_le_self (c - y * s.opRowStride) d.groupBytes
          have h2 := Nat.lt_div_mul_add (a := c - y * s.opRowStride) hgb
          rw [hg] at h1 h2
          omega
        simp [hle, hne]
      · simp [hle]

/-- Address `c` lies in group `g` of row `y`, one of the row's groups, exactly when row and group are those of its address (R53). -/
theorem State.mem_group_iff {s : State} {d : Descriptor} (hgb : 0 < d.groupBytes)
    (hfit : s.rowGroups d * d.groupBytes ≤ s.opRowStride) {y g c : Nat} (hg : g < s.rowGroups d) :
    (y * s.opRowStride ≤ c ∧ (c - y * s.opRowStride) / d.groupBytes = g) ↔
      (c / s.opRowStride, c % s.opRowStride / d.groupBytes) = (y, g) := by
  have hsub : c / s.opRowStride = y → c - y * s.opRowStride = c % s.opRowStride := by
    rintro rfl; rw [Nat.mul_comm, Nat.mod_eq_sub_mul_div]
  rw [Prod.mk.injEq]
  constructor
  · rintro ⟨hle, hdiv⟩
    have h1 : (c - y * s.opRowStride) < s.rowGroups d * d.groupBytes := by
      rw [← Nat.div_lt_iff_lt_mul hgb, hdiv]; exact hg
    have hy : c / s.opRowStride = y := by
      refine Nat.div_eq_of_lt_le (by omega) ?_
      rw [Nat.add_mul, Nat.one_mul]; omega
    exact ⟨hy, by rw [← hsub hy, hdiv]⟩
  · rintro ⟨hy, hdiv⟩
    exact ⟨by rw [← hy]; exact Nat.div_mul_le_self _ _, by rw [hsub hy, hdiv]⟩

/-- Groups listed in any order (20_memory.md R58): an address reads as its own group gives it when that group is listed, and as
before when it is not. -/
theorem State.read_packPairs {s : State} {d : Descriptor} {pg : Slots → List Byte} (hgb : 0 < d.groupBytes)
    (hfit : s.rowGroups d * d.groupBytes ≤ s.opRowStride) (yg : List (Nat × Nat)) (hyg : ∀ p ∈ yg, p.2 < s.rowGroups d)
    (m : Memory) (c : Nat) :
    (s.packPairs d pg yg m).read c =
      if (c / s.opRowStride, c % s.opRowStride / d.groupBytes) ∈ yg then s.packedByte d pg c else m.read c := by
  induction yg with
  | nil => simp [State.packPairs]
  | cons p yg ih =>
    obtain ⟨y, g⟩ := p
    have hg : g < s.rowGroups d := hyg (y, g) List.mem_cons_self
    have hstep : s.packPairs d pg ((y, g) :: yg) m = s.packRow d pg [g] y (s.packPairs d pg yg m) := rfl
    rw [hstep, State.read_packRow hgb, ih fun p hp => hyg p (List.mem_cons_of_mem _ hp)]
    simp only [List.mem_cons, List.not_mem_nil, or_false]
    by_cases h : (c / s.opRowStride, c % s.opRowStride / d.groupBytes) = (y, g)
    · have h2 := (State.mem_group_iff hgb hfit hg).2 h
      obtain ⟨rfl, rfl⟩ := Prod.mk.inj h
      have hsub : c - c / s.opRowStride * s.opRowStride = c % s.opRowStride := by
        rw [Nat.mul_comm, Nat.mod_eq_sub_mul_div]
      rw [if_pos h2, if_pos (.inl rfl), State.packedByte, hsub]
    · rw [if_neg (fun h2 => h ((State.mem_group_iff hgb hfit hg).1 h2))]
      simp [h]

/-- Rows written one after another are their groups written one after another. -/
theorem State.packRows_eq_packPairs (s : State) (d : Descriptor) (pg : Slots → List Byte) (ys : List Nat) (m : Memory) :
    s.packRows d pg ys m =
      s.packPairs d pg (ys.flatMap fun y => (List.range (s.rowGroups d)).map fun g => (y, g)) m := by
  simp [State.packPairs, State.packRows, State.packRow, List.foldr_flatMap, List.foldr_map]

/-- The rows `ys` written in any order (20_memory.md R58): an address belongs to row `c / RS`, and to a group of it when it
lies in the row's first `minStride` bytes. -/
theorem State.read_packRows {s : State} {d : Descriptor} {pg : Slots → List Byte} (hgb : 0 < d.groupBytes)
    (hfit : s.rowGroups d * d.groupBytes ≤ s.opRowStride) (ys : List Nat) (m : Memory) (c : Nat) :
    (s.packRows d pg ys m).read c =
      if c / s.opRowStride ∈ ys ∧ c % s.opRowStride < s.rowGroups d * d.groupBytes then s.packedByte d pg c
      else m.read c := by
  rw [State.packRows_eq_packPairs, State.read_packPairs hgb hfit _ (by simp; omega)]
  simp [Nat.div_lt_iff_lt_mul hgb]

theorem State.mem_frameGroups {s : State} {d : Descriptor} {p : Nat × Nat} :
    p ∈ s.frameGroups d ↔ p.1 < s.opHeight.toNat ∧ p.2 < s.rowGroups d := by
  obtain ⟨y, g⟩ := p
  simp [State.frameGroups]

theorem State.wf_packRows {s : State} {d : Descriptor} {pg : Slots → List Byte} (ys : List Nat) {m : Memory}
    (h : m.wf = true) : (s.packRows d pg ys m).wf = true := by
  have hrow : ∀ (gs : List Nat) (y : Nat) (m : Memory), m.wf = true → (s.packRow d pg gs y m).wf = true := by
    intro gs y m hm
    induction gs with
    | nil => exact hm
    | cons g gs ih => exact Memory.wf_writeBytes _ _ ih
  induction ys with
  | nil => exact h
  | cons y ys ih => exact hrow _ _ _ ih

theorem State.lost_packRows {s : State} {d : Descriptor} {pg : Slots → List Byte} (ys : List Nat) (m : Memory) :
    (s.packRows d pg ys m).lost = m.lost := by
  have hrow : ∀ (gs : List Nat) (y : Nat) (m : Memory), (s.packRow d pg gs y m).lost = m.lost := by
    intro gs y m
    induction gs with
    | nil => rfl
    | cons g gs ih => exact (Memory.lost_writeBytes _ _ _).trans ih
  induction ys with
  | nil => rfl
  | cons y ys ih => exact (hrow _ _ _).trans ih

/-! ## Bytes the host wrote while the command ran (70_reset_and_hazards.md R246) -/

theorem State.read_loseTouched (s : State) (d : Descriptor) (m : Memory) (c : Nat) :
    (s.loseTouched d m).read c =
      if c ∈ s.hazards.touched ∧ s.inWriteSet d c = true then Config.freeByte s.tick c else m.read c := by
  have key : ∀ l : List Nat, (l.foldr (fun a m => m.lose a (a + 1) s.tick) m).read c =
      if c ∈ l then Config.freeByte s.tick c else m.read c := by
    intro l
    induction l with
    | nil => simp
    | cons a l ih =>
      rw [List.foldr_cons, Memory.read_lose, ih]
      by_cases h : a = c
      · subst h; simp
      · have h1 : ¬ (a ≤ c ∧ c < a + 1) := by omega
        rw [if_neg h1]
        simp [Ne.symm h]
  rw [State.loseTouched, key]
  simp [List.mem_filter]

theorem State.wf_loseTouched {s : State} {d : Descriptor} {m : Memory} (h : m.wf = true) :
    (s.loseTouched d m).wf = true := by
  unfold State.loseTouched
  induction s.hazards.touched.filter (fun a => s.inWriteSet d a) with
  | nil => exact h
  | cons a l ih => exact Memory.wf_lose _ _ _ ih

theorem State.mem_lost_loseTouched {s : State} {d : Descriptor} {m : Memory} {r : Lost}
    (h : r ∈ (s.loseTouched d m).lost) : r ∈ m.lost ∨ r.id = s.tick := by
  unfold State.loseTouched at h
  generalize s.hazards.touched.filter (fun a => s.inWriteSet d a) = l at h
  induction l with
  | nil => exact .inl h
  | cons a l ih =>
    rcases Memory.mem_lost_lose h with h | h
    · exact ih h
    · exact .inr (by rw [h])

@[simp] theorem State.loseTouched_of_untouched {s : State} (h : s.hazards.touched = []) (d : Descriptor) (m : Memory) :
    s.loseTouched d m = m := by
  simp [State.loseTouched, h]

/-! ## The write set (20_memory.md R54) -/

theorem State.inWriteSet_iff {s : State} {d : Descriptor} {c : Nat} :
    s.inWriteSet d c = true ↔
      c / s.opRowStride < s.opHeight.toNat ∧ c % s.opRowStride < s.rowGroups d * d.groupBytes := by
  rw [State.inWriteSet, Bool.and_eq_true, decide_eq_true_iff, decide_eq_true_iff]; rfl

/-- The write set lies below DST_LEN (20_memory.md R55). -/
theorem State.lt_opDstLen_of_inWriteSet {s : State} {d : Descriptor} (h : s.PackReady d.groupPixels d.groupBytes)
    {c : Nat} (hc : s.inWriteSet d c = true) : c < s.opDstLen := by
  obtain ⟨-, -, hfit, -, hdl, -⟩ := h
  obtain ⟨h1, h2⟩ := State.inWriteSet_iff.1 hc
  have h3 := Nat.div_add_mod c s.opRowStride
  have h4 : s.opRowStride * (c / s.opRowStride + 1) ≤ s.opRowStride * s.opHeight.toNat := Nat.mul_le_mul_left _ h1
  rw [Nat.mul_add, Nat.mul_one] at h4
  unfold State.rowGroups at h2
  omega

/-- Outside the write set in the words of R54: not in the first `minStride` bytes of any row. -/
theorem State.not_inWriteSet_of_outside {s : State} {d : Descriptor}
    {c : Nat} (hc : s.OutsideWriteSet d.groupPixels d.groupBytes c) : s.inWriteSet d c = false := by
  by_contra hin
  obtain ⟨h1, h2⟩ := State.inWriteSet_iff.1 (by simpa using hin)
  have h3 := Nat.div_add_mod' c s.opRowStride
  have h4 := hc _ h1
  unfold State.rowGroups at h2
  omega

/-! ## PACK as a whole -/

/-- The state a successful PACK completes from. -/
def State.packed (s : State) (d : Descriptor) (pg : Slots → List Byte) : State :=
  { s with dst := s.loseTouched d (s.packRows d pg (List.range s.opHeight.toNat) s.dst) }

/-- Every PACK completes, with the error its checks report or with OK (45_format_dispatcher.md R188). -/
theorem State.pack_cases (s : State) (d : Descriptor) (pg : Slots → List Byte) :
    (∃ e, s.packCheck d = some e ∧ s.pack d pg = .next (s.raise .pack e))
      ∨ (s.packCheck d = none ∧ s.pack d pg = .next (s.packed d pg).completeOk) := by
  unfold State.pack
  cases h : s.packCheck d with
  | some e => exact .inl ⟨e, rfl, rfl⟩
  | none => exact .inr ⟨rfl, rfl⟩

/-- What DST reads after a successful PACK, byte by byte. -/
theorem State.read_packed {s : State} {d : Descriptor} {pg : Slots → List Byte} (hgb : 0 < d.groupBytes)
    (hgp : 0 < d.groupPixels) (h : s.PackReady d.groupPixels d.groupBytes) (c : Nat) :
    (s.packed d pg).dst.read c =
      if s.inWriteSet d c = true then
        if c ∈ s.hazards.touched then Config.freeByte s.tick c else s.packedByte d pg c
      else s.dst.read c := by
  obtain ⟨hw, -, hfit, -, -, -⟩ := h
  have hrs : 0 < s.opRowStride := by
    refine lt_of_lt_of_le (Nat.mul_pos ?_ hgb) hfit
    unfold ceilDiv
    exact Nat.div_pos (by omega) hgp
  have hpos : (s.packed d pg).dst = s.loseTouched d (s.packRows d pg (List.range s.opHeight.toNat) s.dst) := rfl
  rw [hpos, State.read_loseTouched, State.read_packRows hgb hfit]
  simp only [List.mem_range]
  by_cases hin : s.inWriteSet d c = true
  · have := State.inWriteSet_iff.1 hin
    simp [hin, this]
  · have : ¬ (c / s.opRowStride < s.opHeight.toNat ∧ c % s.opRowStride < s.rowGroups d * d.groupBytes) :=
      fun hh => hin (State.inWriteSet_iff.2 hh)
    rw [if_neg this, if_neg (fun h => hin h.2), if_neg hin]

/-- The byte PACK gives byte `j` of group `g` of row `y`, when the host left the buffers alone (R187). -/
theorem State.read_packed_group {s : State} {d : Descriptor} {pg : Slots → List Byte} (hgb : 0 < d.groupBytes)
    (hgp : 0 < d.groupPixels) (h : s.PackReady d.groupPixels d.groupBytes) (hh : s.hazards = .none)
    {y g j : Nat} (hy : y < s.opHeight.toNat) (hg : g < s.rowGroups d) (hj : j < d.groupBytes) :
    (s.packed d pg).dst.read (groupAddress s.opRowStride d.groupBytes y g + j) =
      (pg (fun k _ => s.slotPixel y (g * d.groupPixels + k))).getD j 0 := by
  have hin : g * d.groupBytes + j < s.rowGroups d * d.groupBytes := by
    have : (g + 1) * d.groupBytes ≤ s.rowGroups d * d.groupBytes := Nat.mul_le_mul_right _ hg
    rw [Nat.add_mul] at this; omega
  have hfit : s.rowGroups d * d.groupBytes ≤ s.opRowStride := h.2.2.1
  have hlt : g * d.groupBytes + j < s.opRowStride := lt_of_lt_of_le hin hfit
  have hrs : 0 < s.opRowStride := by omega
  have hadr : groupAddress s.opRowStride d.groupBytes y g + j = (g * d.groupBytes + j) + s.opRowStride * y := by
    unfold groupAddress; rw [Nat.mul_comm y]; omega
  have hdiv : (groupAddress s.opRowStride d.groupBytes y g + j) / s.opRowStride = y := by
    rw [hadr, Nat.add_mul_div_left _ _ hrs, Nat.div_eq_of_lt hlt, Nat.zero_add]
  have hmod : (groupAddress s.opRowStride d.groupBytes y g + j) % s.opRowStride = g * d.groupBytes + j := by
    rw [hadr, Nat.add_mul_mod_self_left, Nat.mod_eq_of_lt hlt]
  have hgdiv : (g * d.groupBytes + j) / d.groupBytes = g := by
    rw [Nat.add_comm, Nat.add_mul_div_right _ _ hgb, Nat.div_eq_of_lt hj, Nat.zero_add]
  have hgmod : (g * d.groupBytes + j) % d.groupBytes = j := by
    rw [Nat.add_comm, Nat.add_mul_mod_self_right, Nat.mod_eq_of_lt hj]
  have hset : s.inWriteSet d (groupAddress s.opRowStride d.groupBytes y g + j) = true :=
    State.inWriteSet_iff.2 ⟨by rw [hdiv]; exact hy, by rw [hmod]; exact hin⟩
  rw [State.read_packed hgb hgp h, if_pos hset, if_neg (by simp [hh, Hazards.none]), State.packedByte, hdiv, hmod, hgdiv, hgmod]
  congr 2
  funext k use
  exact State.slots_of_no_stale (by simp [hh, Hazards.none]) _ _ _ _ _ _

/-- The same with the number of a group first, as the rules of 45_format_dispatcher.md write it. -/
theorem State.read_packed_completed {s : State} {d : Descriptor} {pg : Slots → List Byte} (hgb : 0 < d.groupBytes)
    (hgp : 0 < d.groupPixels) (h : s.PackReady d.groupPixels d.groupBytes) (hh : s.hazards = .none)
    {y g j : Nat} (hy : y < s.opHeight.toNat) (hg : d.groupPixels * g < s.opWidth.toNat) (hj : j < d.groupBytes) :
    (s.packed d pg).completeOk.dst.read (y * s.opRowStride + d.groupBytes * g + j) =
      (pg (fun k _ => s.slotPixel y (d.groupPixels * g + k))).getD j 0 := by
  have hg2 : g < s.rowGroups d := by
    unfold State.rowGroups ceilDiv
    rw [Nat.lt_div_iff_mul_lt hgp, Nat.mul_comm]; omega
  rw [Nat.mul_comm d.groupBytes, Nat.mul_comm d.groupPixels]
  exact State.read_packed_group hgb hgp h hh hy hg2 hj

theorem byteOf_toNat (v : Nat) : (byteOf v).toNat = v % 256 := by simp [byteOf]

/-! ## The components the packer takes, as claims write them -/

theorem lumaAt_slotPixel (s : State) (y x k : Nat) :
    lumaAt s.params.yuvOffset (fun k _ => s.slotPixel y (x + k)) k = (s.yuvOf y (x + k)).y := by
  unfold lumaAt State.yuvOf State.slotPixel
  by_cases h : x + k < s.opWidth.toNat <;> simp [h, pixelYuv]

theorem chromaUAt_slotPixel (s : State) (y x k : Nat) :
    chromaUAt s.params.yuvOffset (fun k _ => s.slotPixel y (x + k)) k = (s.yuvOf y (x + k)).u := by
  unfold chromaUAt State.yuvOf State.slotPixel
  by_cases h : x + k < s.opWidth.toNat <;> simp [h, pixelYuv]

theorem chromaVAt_slotPixel (s : State) (y x k : Nat) :
    chromaVAt s.params.yuvOffset (fun k _ => s.slotPixel y (x + k)) k = (s.yuvOf y (x + k)).v := by
  unfold chromaVAt State.yuvOf State.slotPixel
  by_cases h : x + k < s.opWidth.toNat <;> simp [h, pixelYuv]

theorem components12_eq (s : State) (y g : Nat) :
    s.components12 y g =
      [redAt 12 (s.slotPixel y (2 * g)), greenAt 12 (s.slotPixel y (2 * g)), blueAt 12 (s.slotPixel y (2 * g)),
        redAt 12 (s.slotPixel y (2 * g + 1)), greenAt 12 (s.slotPixel y (2 * g + 1)),
        blueAt 12 (s.slotPixel y (2 * g + 1))] := by
  unfold State.components12 State.pixel12 State.slotPixel
  by_cases h : 2 * g < s.opWidth.toNat <;> by_cases h1 : 2 * g + 1 < s.opWidth.toNat <;>
    simp [h, h1, redAt, greenAt, blueAt]

end Sys2Proof.Machine
end

