-- ==== Sys2Proof/Laws/PerInstr.lean ====
section
/-! SUPPORT. The family TableRow: the word of a well-formed command lies in its own row of the opcode table (30_encoding.md
R86), one lemma per constructor. -/

namespace Sys2Proof.Laws.TableRow

/-- The word of a command fits its row's mask and pattern (R86). -/
def Statement (i : Instr) : Prop := i.wellFormed = true → (opcodeRow i).selects (encode i) = true

/-- A command word with any tag keeps its upper bits (R80). -/
theorem commandWord_mask (op : BitVec 2) (tag : BitVec 8) :
    commandWord op tag &&& 0xFFFFFF00#32 = commandWord op 0 := by
  revert op tag; decide

theorem describe (tag : Nat) : Statement (.describe tag) := fun _ => by
  simp only [OpcodeRow.selects, opcodeRow, encode, beq_iff_eq]
  exact (commandWord_mask 0 _).trans (by decide)

theorem stride (tag : Nat) : Statement (.stride tag) := fun _ => by
  simp only [OpcodeRow.selects, opcodeRow, encode, beq_iff_eq]
  exact (commandWord_mask 1 _).trans (by decide)

theorem packRgb8 : Statement .packRgb8 := fun _ => by decide
theorem packArgb8 : Statement .packArgb8 := fun _ => by decide
theorem packBgra8 : Statement .packBgra8 := fun _ => by decide
theorem packRgb10 : Statement .packRgb10 := fun _ => by decide
theorem packRgb12Be : Statement .packRgb12Be := fun _ => by decide
theorem packRgb12Le : Statement .packRgb12Le := fun _ => by decide
theorem packYuv8_422 : Statement .packYuv8_422 := fun _ => by decide
theorem packYuv10_422 : Statement .packYuv10_422 := fun _ => by decide
theorem packRgb10xBe : Statement .packRgb10xBe := fun _ => by decide
theorem packRgb10xLe : Statement .packRgb10xLe := fun _ => by decide
theorem packYuva10_422 : Statement .packYuva10_422 := fun _ => by decide

end Sys2Proof.Laws.TableRow
end

