-- ==== Sys2Proof/Laws/Exec.lean ====
section
/-! SUPPORT. What a command can do and what a step can do, said once each. -/

namespace Sys2Proof.Machine

/-! ## The frame of a PACK, by tag -/

/-- An implemented PACK is the frame of R180 on its tag's descriptor and group function (45_format_dispatcher.md R186). -/
theorem exec_of_implemented {p : Instr × Tag} (hp : p ∈ implementedPacks) (s : State) :
    ∃ pg, groupFunction s.params p.2 = some pg ∧ (descRead p.2).impl = true ∧ exec p.1 s = s.pack (descRead p.2) pg := by
  simp only [implementedPacks, List.mem_cons, List.not_mem_nil, or_false] at hp
  rcases hp with rfl | rfl | rfl | rfl | rfl | rfl | rfl | rfl <;> exact ⟨_, rfl, rfl, rfl⟩

/-- Every command completes, in one of three ways: with an error; as a successful DESCRIBE or STRIDE, which write only their
result registers; or as a successful PACK of an implemented tag, which writes only DST (60_exceptions.md R215, R216). -/
theorem exec_cases (i : Instr) (s : State) :
    (∃ e, exec i s = .next (s.raise (if isPackInstr i then .pack else .other) e)
        ∧ e.code.toNat ∈ mayReport (.instr i))
      ∨ (∃ tag, ∃ t ≤ 10, i = .describe t ∧ tagOfCode t = some tag ∧ exec i s = .next ({ s with
          desc := encodeDesc (descRead tag), descName := encodeName (descRead tag) }).completeOk)
      ∨ (∃ tag, ∃ t ≤ 10, i = .stride t ∧ tagOfCode t = some tag ∧ 0 < s.opWidth ∧ exec i s = .next ({ s with
          result := BitVec.ofNat 64
            (minStride (descRead tag).groupPixels (descRead tag).groupBytes s.opWidth.toNat) }).completeOk)
      ∨ (∃ tag pg, (i, tag) ∈ implementedPacks ∧ groupFunction s.params tag = some pg
          ∧ s.PackReady (descRead tag).groupPixels (descRead tag).groupBytes
          ∧ exec i s = .next (s.packed (descRead tag) pg).completeOk) := by
  have packs : ∀ tag, (i, tag) ∈ implementedPacks → isPackInstr i = true → mayReport (.instr i) = [0, 2, 3, 4] →
      (∃ e, exec i s = .next (s.raise (if isPackInstr i then .pack else .other) e)
        ∧ e.code.toNat ∈ mayReport (.instr i))
      ∨ (∃ tag pg, (i, tag) ∈ implementedPacks ∧ groupFunction s.params tag = some pg
          ∧ s.PackReady (descRead tag).groupPixels (descRead tag).groupBytes
          ∧ exec i s = .next (s.packed (descRead tag) pg).completeOk) := by
    intro tag hmem hk hr
    obtain ⟨pg, hpg, himpl, hex⟩ := exec_of_implemented hmem s
    rcases State.pack_cases s (descRead tag) pg with ⟨e, hc, hp⟩ | ⟨hc, hp⟩
    · refine .inl ⟨e, by simp only [hk, if_true]; exact hex.trans hp, ?_⟩
      rw [hr]
      unfold State.packCheck at hc
      rw [himpl] at hc
      cases e
      · exfalso; revert hc; simp only [Bool.not_true, Bool.false_eq_true, if_false]; split_ifs <;> simp
      · decide
      · decide
      · decide
      · exfalso; revert hc; simp only [Bool.not_true, Bool.false_eq_true, if_false]; split_ifs <;> simp
    · exact .inr ⟨tag, pg, hmem, hpg, (State.packCheck_eq_none.1 hc).2, hex.trans hp⟩
  cases i with
  | describe t =>
    cases h : tagOfCode t with
    | none =>
      have ht := tagOfCode_eq_none.1 h
      exact .inl ⟨.unsupportedFormat, by simp [exec, execDescribe, h, isPackInstr],
        by simp [mayReport, Nat.not_le.2 ht, ErrorCode.code]⟩
    | some tag =>
      have ht : t ≤ 10 := by
        by_contra hn
        have := tagOfCode_eq_none.2 (Nat.lt_of_not_le hn)
        rw [h] at this; cases this
      exact .inr (.inl ⟨tag, t, ht, rfl, h, by simp [exec, execDescribe, h]⟩)
  | stride t =>
    cases h : tagOfCode t with
    | none =>
      have ht := tagOfCode_eq_none.1 h
      exact .inl ⟨.unsupportedFormat, by simp [exec, execStride, h, isPackInstr],
        by simp [mayReport, Nat.not_le.2 ht, ErrorCode.code]⟩
    | some tag =>
      have ht : t ≤ 10 := by
        by_contra hn
        have := tagOfCode_eq_none.2 (Nat.lt_of_not_le hn)
        rw [h] at this; cases this
      by_cases hw : s.opWidth ≤ 0
      · exact .inl ⟨.invalidDimension, by simp [exec, execStride, h, hw, isPackInstr],
          by simp [mayReport, ht, ErrorCode.code]⟩
      · exact .inr (.inr (.inl ⟨tag, t, ht, rfl, h, by omega, by simp [exec, execStride, h, hw]⟩))
  | packRgb8 => exact (packs .rgb8 (by simp [implementedPacks]) rfl rfl).imp_right fun h => .inr (.inr h)
  | packArgb8 => exact (packs .argb8 (by simp [implementedPacks]) rfl rfl).imp_right fun h => .inr (.inr h)
  | packBgra8 => exact (packs .bgra8 (by simp [implementedPacks]) rfl rfl).imp_right fun h => .inr (.inr h)
  | packRgb10 => exact (packs .rgb10 (by simp [implementedPacks]) rfl rfl).imp_right fun h => .inr (.inr h)
  | packRgb12Be => exact (packs .rgb12Be (by simp [implementedPacks]) rfl rfl).imp_right fun h => .inr (.inr h)
  | packRgb12Le => exact (packs .rgb12Le (by simp [implementedPacks]) rfl rfl).imp_right fun h => .inr (.inr h)
  | packYuv8_422 => exact (packs .yuv8_422 (by simp [implementedPacks]) rfl rfl).imp_right fun h => .inr (.inr h)
  | packYuv10_422 => exact (packs .yuv10_422 (by simp [implementedPacks]) rfl rfl).imp_right fun h => .inr (.inr h)
  | packRgb10xBe => exact .inl ⟨.unsupportedFormat, rfl, by decide⟩
  | packRgb10xLe => exact .inl ⟨.unsupportedFormat, rfl, by decide⟩
  | packYuva10_422 => exact .inl ⟨.unsupportedFormat, rfl, by decide⟩

/-! ## Two states with the same operand registers -/

theorem State.packCheck_congr {s u : State} (h1 : u.width = s.width) (h2 : u.height = s.height)
    (h3 : u.rowStride = s.rowStride) (h4 : u.srcLen = s.srcLen) (h5 : u.dstLen = s.dstLen) (d : Descriptor) :
    u.packCheck d = s.packCheck d := by
  cases s; cases u; subst h1 h2 h3 h4 h5; rfl

/-- From two states with the same operand registers and parameters a command goes the same way: the same error, the same descriptor, the same
stride, or the same PACK. -/
theorem exec_together {s u : State} (i : Instr) (h1 : u.width = s.width) (h2 : u.height = s.height)
    (h3 : u.rowStride = s.rowStride) (h4 : u.srcLen = s.srcLen) (h5 : u.dstLen = s.dstLen) (h6 : u.params = s.params) :
    (∃ e k, exec i s = .next (s.raise k e) ∧ exec i u = .next (u.raise k e))
      ∨ (∃ tag, (∃ t, i = .describe t)
        ∧ exec i s = .next ({ s with
            desc := encodeDesc (descRead tag), descName := encodeName (descRead tag) }).completeOk
        ∧ exec i u = .next ({ u with
            desc := encodeDesc (descRead tag), descName := encodeName (descRead tag) }).completeOk)
      ∨ (∃ r, (∃ t, i = .stride t) ∧ exec i s = .next ({ s with result := r }).completeOk
        ∧ exec i u = .next ({ u with result := r }).completeOk)
      ∨ (∃ tag pg, (i, tag) ∈ implementedPacks ∧ groupFunction s.params tag = some pg
        ∧ s.PackReady (descRead tag).groupPixels (descRead tag).groupBytes
        ∧ u.PackReady (descRead tag).groupPixels (descRead tag).groupBytes
        ∧ exec i s = .next (s.packed (descRead tag) pg).completeOk
        ∧ exec i u = .next (u.packed (descRead tag) pg).completeOk) := by
  have hp : ∀ tag, (i, tag) ∈ implementedPacks →
      (∃ e k, exec i s = .next (s.raise k e) ∧ exec i u = .next (u.raise k e))
      ∨ (∃ tag pg, (i, tag) ∈ implementedPacks ∧ groupFunction s.params tag = some pg
        ∧ s.PackReady (descRead tag).groupPixels (descRead tag).groupBytes
        ∧ u.PackReady (descRead tag).groupPixels (descRead tag).groupBytes
        ∧ exec i s = .next (s.packed (descRead tag) pg).completeOk
        ∧ exec i u = .next (u.packed (descRead tag) pg).completeOk) := by
    intro tag hm
    obtain ⟨pg, hpg, hi, hs⟩ := exec_of_implemented hm s
    obtain ⟨pg', hpg', -, hu⟩ := exec_of_implemented hm u
    simp only [h6] at hpg hpg' hs hu hi
    rw [hpg] at hpg'; cases hpg'
    have hc := State.packCheck_congr h1 h2 h3 h4 h5 (descRead tag)
    rcases State.pack_cases s (descRead tag) pg with ⟨e, he, hp⟩ | ⟨he, hp⟩ <;>
      rcases State.pack_cases u (descRead tag) pg with ⟨e', he', hp'⟩ | ⟨he', hp'⟩
    · rw [hc, he] at he'; cases he'
      exact .inl ⟨e, .pack, hs.trans hp, hu.trans hp'⟩
    · rw [hc, he] at he'; cases he'
    · rw [hc, he] at he'; cases he'
    · exact .inr ⟨tag, pg, hm, hpg, (State.packCheck_eq_none.1 he).2, (State.packCheck_eq_none.1 he').2, hs.trans hp,
        hu.trans hp'⟩
  cases i with
  | describe t =>
    cases h : tagOfCode t with
    | none => exact .inl ⟨.unsupportedFormat, .other, by simp [exec, execDescribe, h], by simp [exec, execDescribe, h]⟩
    | some tag => exact .inr (.inl ⟨tag, ⟨t, rfl⟩, by simp [exec, execDescribe, h], by simp [exec, execDescribe, h]⟩)
  | stride t =>
    have hw : u.opWidth = s.opWidth := by simp only [State.opWidth, h1]
    cases h : tagOfCode t with
    | none => exact .inl ⟨.unsupportedFormat, .other, by simp [exec, execStride, h], by simp [exec, execStride, h]⟩
    | some tag =>
      by_cases h0 : s.opWidth ≤ 0
      · exact .inl ⟨.invalidDimension, .other, by simp [exec, execStride, h, h0], by simp [exec, execStride, h, h0, hw]⟩
      · exact .inr (.inr (.inl ⟨_, ⟨t, rfl⟩, by simp only [exec, execStride, h, if_neg h0]; rfl,
          by simp only [exec, execStride, h, hw, if_neg h0]⟩))
  | packRgb8 => exact (hp .rgb8 (by simp [implementedPacks])).imp_right fun h => Or.inr (Or.inr h)
  | packArgb8 => exact (hp .argb8 (by simp [implementedPacks])).imp_right fun h => Or.inr (Or.inr h)
  | packBgra8 => exact (hp .bgra8 (by simp [implementedPacks])).imp_right fun h => Or.inr (Or.inr h)
  | packRgb10 => exact (hp .rgb10 (by simp [implementedPacks])).imp_right fun h => Or.inr (Or.inr h)
  | packRgb12Be => exact (hp .rgb12Be (by simp [implementedPacks])).imp_right fun h => Or.inr (Or.inr h)
  | packRgb12Le => exact (hp .rgb12Le (by simp [implementedPacks])).imp_right fun h => Or.inr (Or.inr h)
  | packYuv8_422 => exact (hp .yuv8_422 (by simp [implementedPacks])).imp_right fun h => Or.inr (Or.inr h)
  | packYuv10_422 => exact (hp .yuv10_422 (by simp [implementedPacks])).imp_right fun h => Or.inr (Or.inr h)
  | packRgb10xBe => exact .inl ⟨.unsupportedFormat, .pack, rfl, rfl⟩
  | packRgb10xLe => exact .inl ⟨.unsupportedFormat, .pack, rfl, rfl⟩
  | packYuva10_422 => exact .inl ⟨.unsupportedFormat, .pack, rfl, rfl⟩

/-- The kind of command a word outside the table fails as (30_encoding.md R87). -/
def Reject.kind : Reject → CommandKind
  | .reservedBits => .other
  | .reservedOperation => .other
  | .packUnregisteredTag => .pack

/-- The error a word outside the table reports (30_encoding.md R87). -/
def Reject.error : Reject → ErrorCode
  | .reservedBits => .illegalCommand
  | .reservedOperation => .illegalCommand
  | .packUnregisteredTag => .unsupportedFormat

theorem State.rejectCommand_eq (s : State) (r : Reject) : s.rejectCommand r = s.raise (Reject.kind r) (Reject.error r) := by
  cases r <;> rfl

/-! ## The register map (10_state.md R21) -/

theorem regSlot_offset (r : Reg) : regSlot r.offset = .reg r := by cases r <;> rfl

theorem regSlot_eq_hole {offset : Nat} : regSlot offset = .hole ↔ (0x34 ≤ offset ∧ offset < 0x40) ∨ 0x50 ≤ offset := by
  by_cases h : offset < 0x50
  · have : ∀ k < 0x50, regSlot k = .hole ↔ (0x34 ≤ k ∧ k < 0x40) ∨ 0x50 ≤ k := by decide
    exact this offset h
  · have : regSlot offset = .hole := by
      unfold regSlot
      iterate 10 rw [if_neg (by omega)]
      rw [if_neg (by omega), if_pos (by omega)]
    exact iff_of_true this (.inr (by omega))

/-- Only a result register read while a command runs can bring in its new value early (70_reset_and_hazards.md R249). -/
theorem State.earlyResult_eq_self {s : State} {r : Reg} (h : s.busy = false ∨ r ∉ [Reg.result, .desc, .descName]) :
    s.earlyResult r = s := by
  unfold State.earlyResult
  split
  · next hb => cases r <;> first | rfl | simp [hb] at h
  · rfl

/-- Every other read of a register returns its value and changes nothing else (10_state.md R21, 70_reset_and_hazards.md R250). -/
theorem State.hostReadReg_offset {s : State} {r : Reg} (h : s.busy = false ∨ r ∉ [Reg.result, .desc, .descName]) :
    s.hostReadReg r.offset = .next { s with readData := s.regValue r } := by
  simp [State.hostReadReg, regSlot_offset, State.earlyResult_eq_self h]

/-! ## What a step can do -/

/-- A step with no event pending is the converter's turn. -/
theorem step_of_pending_nil {s : State} (h : s.pending = []) : step s = s.converterTurn := by
  simp [step, h]

/-- A step with an event pending takes it. -/
theorem step_of_pending_cons {s : State} {e : Event} {rest : List Event} (h : s.pending = e :: rest) :
    step s = ({ s with pending := rest }).takeEvent e := by
  simp [step, h]

/-- The converter's turn on a running command is the meaning of the decoded instruction, or the completion of a word outside
the table (30_encoding.md R85). -/
theorem State.converterTurn_of_busy {s : State} (h : s.busy = true) : s.converterTurn = s.runCommand := by
  simp [State.converterTurn, h]

theorem State.converterTurn_of_idle {s : State} (h : s.busy = false) : s.converterTurn = .next s := by
  simp [State.converterTurn, h]

theorem State.runCommand_of_instr {s : State} {i : Instr} (h : decode s.cmd = .instr i) : s.runCommand = exec i s := by
  simp [State.runCommand, h]

theorem State.commandEnd_of_instr {s t : State} {i : Instr} (h : decode s.cmd = .instr i) (he : exec i s = .next t) :
    s.commandEnd = t := by
  simp [State.commandEnd, State.runCommand, h, he]

theorem State.runCommand_of_reject {s : State} {r : Reject} (h : decode s.cmd = .reject r) :
    s.runCommand = .next (s.raise (Reject.kind r) (Reject.error r)) := by
  simp [State.runCommand, h, State.rejectCommand_eq]

theorem State.commandEnd_of_reject {s : State} {r : Reject} (h : decode s.cmd = .reject r) :
    s.commandEnd = s.raise (Reject.kind r) (Reject.error r) := by
  simp [State.commandEnd, State.runCommand_of_reject h]

end Sys2Proof.Machine
end

