-- ==== Sys2Proof/Tests/Slice0.lean ====
section
/-! SUPPORT. The model's own tests: ill-formed terms refused, words written out from 30_encoding.md R86, single steps against the
vectors of 95_test_vectors.md and the examples of 45_format_dispatcher.md, and for every obligation with hypotheses a concrete
state and operands that meet them. -/

namespace Sys2Proof.Tests

open Sys2Proof.Machine

/-! ## Helpers -/

/-- Samples from index `i` on, zeros left unlisted. -/
def samplesFrom : Nat → List Nat → Samples
  | _, [] => []
  | i, v :: vs => if v = 0 then samplesFrom (i + 1) vs else (i, BitVec.ofNat 16 v) :: samplesFrom (i + 1) vs

/-- An idle converter with the given operand registers and source samples. -/
def frame (w h rs sl dl : Nat) (samples : List Nat) : State :=
  { State.reset with
    width := BitVec.ofNat 32 w
    height := BitVec.ofNat 32 h
    rowStride := BitVec.ofNat 64 rs
    srcLen := BitVec.ofNat 64 sl
    dstLen := BitVec.ofNat 64 dl
    src := samplesFrom 0 samples }

/-- RED, GRN of 95_test_vectors.md. -/
def redGreen : List Nat := [65535, 0, 0, 0, 65535, 0]

/-- A, B, C of 95_test_vectors.md. -/
def abc : List Nat := [4660, 32768, 65535, 65535, 257, 17, 40000, 20000, 10000]

/-- One row of `w` pixels with ROW_STRIDE = DST_LEN = `rs` and SRC_LEN = 3 × `w`. -/
def row (w rs : Nat) (samples : List Nat) : State := frame w 1 rs (3 * w) rs samples

/-- The command word `c` running, with no event pending. -/
def running (s : State) (c : Word) : State := s.start c

/-- With these events to come. -/
def upcoming (s : State) (events : List Event) : State := { s with pending := events }

/-- The step that runs word `w` reaches a next state that gives these: STATUS and the bytes of DST from 0 on. -/
def packs (s : State) (w : Nat) (status : Word) (bytes : List Nat) : Bool :=
  match step (s.withFetchWord 32 w) with
  | .next t => t.status == status && (t.dst.bytesAt 0 bytes.length).map BitVec.toNat == bytes
  | .fault _ => false
  | .refused _ => false

/-- The step that runs word `w` reaches a next state with this STATUS, RESULT, DESC and DESC_NAME. -/
def reports (s : State) (w : Nat) (status : Word) (result : BitVec 64) (desc : Word) (name : BitVec 128) : Bool :=
  match step (s.withFetchWord 32 w) with
  | .next t => t.status == status && t.result == result && t.desc == desc && t.descName == name
  | .fault _ => false
  | .refused _ => false

/-- A step from here reaches a next state. -/
def steps (s : State) : Bool :=
  match step s with
  | .next _ => true
  | .fault _ => false
  | .refused _ => false

/-- The command reaches a next state from here. -/
def execs (i : Instr) (s : State) : Bool :=
  match exec i s with
  | .next _ => true
  | .fault _ => false
  | .refused _ => false

theorem next_of_steps {s : State} (h : steps s = true) : ∃ t, step s = .next t := by
  unfold steps at h
  split at h
  · exact ⟨_, by assumption⟩
  · cases h
  · cases h

/-- `n` steps reach a state where `p` holds. -/
def afterSteps : Nat → State → (State → Bool) → Bool
  | 0, s, p => p s
  | n + 1, s, p =>
    match step s with
    | .next t => afterSteps n t p
    | .fault _ => false
    | .refused _ => false

/-! ## Well-formedness (30_encoding.md R80, R83) -/

theorem test_describe_of_nine_bit_tag_is_ill_formed : (Instr.describe 256).wellFormed = false := by decide

theorem test_stride_of_nine_bit_tag_is_ill_formed : (Instr.stride 256).wellFormed = false := by decide

theorem test_tags_up_to_255_are_well_formed :
    (Instr.describe 255).wellFormed = true ∧ (Instr.stride 0).wellFormed = true ∧ Instr.packRgb8.wellFormed = true := by decide

/-! ## Decoding: words written out from the pattern column of 30_encoding.md R86 -/

theorem test_decode_describe_stride :
    decode 0b00000000000000000000000000000101 = .instr (.describe 5)
      ∧ decode 0b00000000000000000000000011111111 = .instr (.describe 255)
      ∧ decode 0b00000000000000000000000100000111 = .instr (.stride 7) := by decide

theorem test_decode_pack_rgb :
    decode 0b00000000000000000000001000000000 = .instr .packRgb8
      ∧ decode 0b00000000000000000000001000000001 = .instr .packArgb8
      ∧ decode 0b00000000000000000000001000000010 = .instr .packBgra8
      ∧ decode 0b00000000000000000000001000000011 = .instr .packRgb10
      ∧ decode 0b00000000000000000000001000000100 = .instr .packRgb12Be
      ∧ decode 0b00000000000000000000001000000101 = .instr .packRgb12Le := by decide

theorem test_decode_pack_yuv_and_unimplemented :
    decode 0b00000000000000000000001000000110 = .instr .packYuv8_422
      ∧ decode 0b00000000000000000000001000000111 = .instr .packYuv10_422
      ∧ decode 0b00000000000000000000001000001000 = .instr .packRgb10xBe
      ∧ decode 0b00000000000000000000001000001001 = .instr .packRgb10xLe
      ∧ decode 0b00000000000000000000001000001010 = .instr .packYuva10_422 := by decide

/-- The vectors of 95_test_vectors.md section 2.8: the edges of the classes of 30_encoding.md R87. -/
theorem test_decode_outside_the_table :
    decode 0x20B = .reject .packUnregisteredTag ∧ decode 0x2FF = .reject .packUnregisteredTag
      ∧ decode 0x300 = .reject .reservedOperation ∧ decode 0x3FF = .reject .reservedOperation
      ∧ decode 0x400 = .reject .reservedBits ∧ decode 0xFFFFFFFF = .reject .reservedBits := by decide

theorem test_opcode_rows_do_not_overlap :
    opcodeTable.Pairwise (fun r q => (r.pattern ^^^ q.pattern) &&& r.mask &&& q.mask ≠ 0) := by decide

theorem test_table_word : decodeTableWord 32 0x20A = some .packYuva10_422 ∧ decodeTableWord 32 0x300 = none := by decide

/-! ## DESCRIBE (95_test_vectors.md section 2.1) -/

theorem test_describe_yuv10 :
    reports State.reset 0x007 0x02 0 0x100636BA 0x3232345F3031565559 = true := by decide

theorem test_describe_unregistered_leaves_desc :
    reports { State.reset with desc := 7, descName := 9 } 0x00B 0x16 0 7 9 = true := by decide

/-! ## STRIDE (95_test_vectors.md section 2.2) -/

theorem test_stride_of_widest_row_exceeds_32_bits :
    reports (frame 0x7FFFFFFF 0 0 0 0 []) 0x107 0x02 5726623072 0 0 = true := by decide

theorem test_stride_of_negative_width :
    reports { frame 0x80000000 0 0 0 0 [] with result := 5 } 0x107 0x26 5 0 0 = true
      ∧ reports { frame 0 0 0 0 0 [] with result := 5 } 0x10B 0x16 5 0 0 = true := by decide

/-! ## PACK (95_test_vectors.md section 2.5) -/

theorem test_pack_rgb8 : packs (row 3 9 abc) 0x200 0x02 [0x12, 0x7F, 0xFF, 0xFF, 0x01, 0x00, 0x9B, 0x4D, 0x26] = true := by
  decide

/-- D0's two rows with a padded stride: the trailing bytes of each row keep what the host left (20_memory.md R54). -/
theorem test_pack_rgb8_leaves_row_padding :
    packs { frame 1 2 6 6 12 redGreen with dst := ⟨[(3, 0xAA), (11, 0xBB)], []⟩ } 0x200 0x02
      [0xFF, 0, 0, 0xAA, 0, 0, 0, 0xFF, 0, 0, 0, 0xBB] = true := by decide

theorem test_pack_argb8 : packs (row 2 8 abc) 0x201 0x02 [0xFF, 0x12, 0x7F, 0xFF, 0xFF, 0xFF, 0x01, 0x00] = true := by
  decide

/-- D0's end-to-end scenario (T11). -/
theorem test_pack_bgra8 : packs (row 2 8 redGreen) 0x202 0x02 [0, 0, 255, 255, 0, 255, 0, 255] = true := by decide

theorem test_pack_rgb10 :
    packs (row 3 12 abc) 0x203 0x02 [0x04, 0x87, 0xFF, 0xFF, 0x3F, 0xF0, 0x10, 0x00, 0x27, 0x04, 0xE0, 0x9C] = true := by
  decide

theorem test_pack_rgb12Be_odd_width :
    packs (row 3 18 abc) 0x204 0x02 [0x12, 0x37, 0xFF, 0xFF, 0xFF, 0xFF, 0x01, 0x00, 0x01,
      0x9C, 0x34, 0xE1, 0x27, 0, 0, 0, 0, 0] = true := by decide

theorem test_pack_rgb12Le_odd_width :
    packs (row 3 18 abc) 0x205 0x02 [0x23, 0xF1, 0x7F, 0xFF, 0xFF, 0xFF, 0x10, 0x10, 0x00,
      0xC3, 0x19, 0x4E, 0x70, 0x02, 0, 0, 0, 0] = true := by decide

theorem test_pack_yuv8_odd_width :
    packs (row 3 8 abc) 0x206 0x02 [0x48, 0x5E, 0x00, 0x42, 0x00, 0x52, 0x25, 0x00] = true := by decide

theorem test_pack_yuv8_chroma_of_first_pixel :
    packs (row 2 4 [0, 65535, 0, 65535, 0, 0]) 0x206 0x02 [0x00, 0x80, 0x00, 0x42] = true := by decide

theorem test_pack_yuv10 :
    packs (row 3 16 abc) 0x207 0x02 [0x48, 0x78, 0x01, 0x00, 0x42, 0x00, 0x20, 0x05, 0x25, 0, 0, 0, 0, 0, 0, 0] = true := by
  decide

/-- White with the offsets of the last column of 43_color_converter.md R148. -/
theorem test_pack_yuv8_with_studio_offsets :
    packs { row 1 4 [65535, 65535, 65535] with params := ⟨⟨16, 128, 128⟩, 0⟩ } 0x206 0x02 [128, 235, 128, 0] = true := by
  decide

/-- White's luma 219 shifted left by 2 is 0x36C (the alternative of 92_eei_decisions.md D19), in bits 19:10 of the first word. -/
theorem test_pack_yuv10_with_shift :
    packs { row 1 16 [65535, 65535, 65535] with params := ⟨⟨0, 0, 0⟩, 2⟩ } 0x207 0x02 [0x00, 0xB0, 0x0D, 0x00, 0] = true := by
  decide

/-- The examples of 45_format_dispatcher.md R198 to R200. -/
theorem test_pack_of_unimplemented_tags :
    packs State.reset 0x208 0x16 [] = true ∧ packs State.reset 0x209 0x16 [] = true
      ∧ packs (row 1 4 abc) 0x20A 0x16 [] = true := by decide

/-- The priority of 60_exceptions.md R218, one line for each error of a PACK. -/
theorem test_pack_errors :
    packs (frame 0 1 6 6 6 []) 0x200 0x26 [] = true ∧ packs (frame 2 1 7 6 7 []) 0x200 0x26 [] = true
      ∧ packs (frame 2 1 6 5 5 []) 0x200 0x36 [] = true ∧ packs (frame 2 1 6 7 6 []) 0x200 0x46 [] = true := by decide

/-- An illegal word leaves DST alone; a failed PACK keeps it at and above DST_LEN (60_exceptions.md R216). -/
theorem test_failed_commands_and_dst :
    packs { row 2 6 redGreen with dst := ⟨[(0, 1), (1, 2)], []⟩ } 0x300 0x56 [1, 2] = true
      ∧ afterSteps 1 ({ frame 0 1 6 6 2 [] with dst := ⟨[(1, 1), (2, 2)], []⟩ }.withFetchWord 32 0x200)
        (fun t => t.dst.read 2 == 2 && t.dst.cells == [(2, 2)]) = true := by decide

/-! ## Host actions -/

/-- PACKMIN (30_encoding.md R91) from reset: the host's own steps and the two commands' turns. -/
theorem test_packmin_sizes_and_packs :
    afterSteps 15 (upcoming (frame 0 0 0 0 0 redGreen) (expandStmt (.packMin 2 2 1 6)))
      (fun t => t.rowStride == 8 && t.dstLen == 8 && t.status == 0x02
        && (t.dst.bytesAt 0 8).map BitVec.toNat == [0, 0, 255, 255, 0, 255, 0, 255]) = true := by decide

/-- A poll before any command reads STATUS 0 and polls again. -/
theorem test_poll_before_any_command :
    afterSteps 2 (upcoming State.reset [.host .pollDone, .reset])
      (fun t => t.readData == 0 && t.pending == [.host .pollDone, .reset]) = true := by decide

/-- A host write to a byte of the write set while the command runs makes it unspecified: it is no longer listed (R246). -/
theorem test_dst_write_while_busy_is_lost :
    afterSteps 2 (upcoming (running (row 1 3 abc) 0x200) [.host (.writeDst 1 0x55)])
      (fun t => t.dst.lost.map (fun r => (r.lo, r.hi)) == [(1, 2)] && t.dst.read 0 == 0x12 && t.dst.read 2 == 0xFF
        && t.hazards == .none) = true := by decide

/-- A reset while a PACK runs ends it without a completion (70_reset_and_hazards.md R242). -/
theorem test_reset_during_pack :
    afterSteps 1 (upcoming (running (row 1 3 abc) 0x200) [.reset])
      (fun t => t.status == 0 && t.width == 0 && t.dst.lost.map (fun r => (r.lo, r.hi)) == [(0, 3)] && t.src == (row 1 3 abc).src)
        = true := by decide

/-! ## Witnesses: states and operands that meet the hypotheses of the obligations -/

theorem witness_DecodeOfEncodeGivesTheCommand : (Instr.describe 255).wellFormed = true ∧ Instr.packYuva10_422.wellFormed = true := by
  decide

theorem witness_DecodedWordIsTheWordOfItsCommand : decode 0x1FF = .instr (.stride 255) := by decide

theorem witness_DecodeAgreesWithTheOpcodeTable :
    decode 0x200 = .instr .packRgb8 ∧ opcodeRow .packRgb8 ∈ opcodeTable ∧ (opcodeRow .packRgb8).selects 0x200 = true
      ∧ (opcodeRow (.stride 0)).selects 0x200 = false := by decide

theorem witness_WordsOutsideTheTableFallInThreeClasses :
    0x400 ≤ (0x400#32).toNat ∧ 0x400 ≤ (0xFFFFFFFF#32).toNat
      ∧ (0x300 ≤ (0x300#32).toNat ∧ (0x3FF#32).toNat < 0x400)
      ∧ (0x20B ≤ (0x20B#32).toNat ∧ (0x2FF#32).toNat < 0x300) ∧ (0x20A#32).toNat < 0x20B := by decide

theorem witness_ConverterTurnExecutesTheDecodedCommand :
    let s := running (row 2 6 redGreen) 0x200
    s.busy = true ∧ decode s.cmd = .instr .packRgb8 ∧ s.pending = []
      ∧ (upcoming s [.converter, .reset]).pending = .converter :: [.reset] := by decide

theorem witness_FetchedWordIsExecutedNext : decode (BitVec.ofNat 32 0x107) = .instr (.stride 7) ∧ 0x107 < 2 ^ 32 := by decide

theorem witness_WriteToCmdWhileIdleStartsTheCommand :
    let s := upcoming (row 2 6 redGreen) [.host (.writeReg 0x00 ((0x300#32).setWidth 128)), .converter]
    s.busy = false ∧ s.pending = .host (.writeReg 0x00 ((0x300#32).setWidth 128)) :: [.converter] := by decide

theorem witness_WriteToCmdThenConverterTurnExecutesTheCommand :
    let s := upcoming (row 2 6 redGreen) [.host (.writeReg 0x00 ((encode .packRgb8).setWidth 128)), .converter]
    s.busy = false ∧ Instr.packRgb8.wellFormed = true
      ∧ s.pending = .host (.writeReg 0x00 ((encode .packRgb8).setWidth 128)) :: .converter :: [] := by decide

theorem witness_RegisterWriteWhileBusyIsIgnored :
    (running (row 2 6 redGreen) 0x200).busy = true
      ∧ (upcoming (running (row 2 6 redGreen) 0x200) [.host (.writeReg 0x00 0x300)]).pending = [.host (.writeReg 0x00 0x300)]
      ∧ regSlot 0x00 ≠ .inside ∧ regSlot 0x4F = .inside ∧ regSlot 0x50 ≠ .inside := by decide

theorem witness_WriteToOperandRegisterStoresIt :
    State.reset.busy = false
      ∧ (upcoming State.reset [.host (.writeReg 0x08 1)]).pending = .host (.writeReg 0x08 1) :: []
      ∧ (upcoming State.reset [.host (.writeReg 0x0C 1)]).pending = .host (.writeReg 0x0C 1) :: []
      ∧ (upcoming State.reset [.host (.writeReg 0x10 1)]).pending = .host (.writeReg 0x10 1) :: []
      ∧ (upcoming State.reset [.host (.writeReg 0x18 1)]).pending = .host (.writeReg 0x18 1) :: []
      ∧ (upcoming State.reset [.host (.writeReg 0x20 1)]).pending = .host (.writeReg 0x20 1) :: [] := by decide

theorem witness_WritesOutsideTheWritableRegistersAreIgnored :
    0x04 ∈ [0x04, 0x28, 0x30, 0x40] ∧ (0x34 ≤ 0x34 ∧ 0x3F ≤ 0x3F) ∧ 0x50 ≤ 0x50
      ∧ (upcoming State.reset [.host (.writeReg 0x3F 1)]).pending = .host (.writeReg 0x3F 1) :: []
      ∧ (upcoming State.reset [.host (.readReg 0x50)]).pending = .host (.readReg 0x50) :: [] := by decide

/-- CMD, the first offset, and DST_LEN, the last of the first list, while a command runs; RESULT and DESC_NAME while idle. -/
theorem witness_RegisterReadReturnsTheRegister :
    let s := running (row 2 6 redGreen) 0x200
    let idle := frame 1 2 3 4 5 []
    ((upcoming s [.host (.readReg 0x00)]).pending = .host (.readReg 0x00) :: [] ∧ s.cmd.setWidth 128 = 0x200)
      ∧ ((upcoming s [.host (.readReg 0x20)]).pending = .host (.readReg 0x20) :: [] ∧ s.dstLen.setWidth 128 = 6)
      ∧ ((upcoming idle [.host (.readReg 0x28)]).pending = .host (.readReg 0x28) :: [] ∧ idle.busy = false)
      ∧ (upcoming idle [.host (.readReg 0x40)]).pending = .host (.readReg 0x40) :: [] := by decide

theorem witness_ResultReadWhileBusyIsOldOrNew :
    let s := running (row 2 6 redGreen) 0x100
    s.busy = true ∧ (upcoming s [.host (.readReg 0x28)]).pending = .host (.readReg 0x28) :: []
      ∧ (upcoming s [.host (.readReg 0x30)]).pending = .host (.readReg 0x30) :: []
      ∧ (upcoming s [.host (.readReg 0x40)]).pending = .host (.readReg 0x40) :: [] := by decide

theorem witness_PollReadsStatusOnceDone :
    let s := upcoming State.reset [.host .pollDone]
    s.pending = .host .pollDone :: [] ∧ (running s 0x200).busy = true ∧ (running s 0x200).pending = .host .pollDone :: []
      ∧ ({ s with status := 0x16 }.busy = false ∧ { s with status := 0x16 }.done = true)
      ∧ (s.busy = false ∧ s.done = false) := by decide

theorem witness_ResetInputClearsTheRegisters :
    (upcoming (running (row 2 6 redGreen) 0x200) [.reset]).pending = .reset :: []
      ∧ isPackWord (running (row 2 6 redGreen) 0x200).cmd = true
      ∧ ¬ ((row 2 6 redGreen).busy = true ∧ isPackWord (row 2 6 redGreen).cmd = true)
      ∧ (row 2 6 redGreen).opDstLen ≤ 6 := by decide

theorem witness_EveryRunningCommandCompletes :
    (running State.reset 0xFFFFFFFF).busy = true ∧ (running State.reset 0xFFFFFFFF).pending = [] := by decide

theorem witness_IllegalWordChangesOnlyStatus :
    (running State.reset 0x300).busy = true ∧ (running State.reset 0x300).pending = []
      ∧ 0x300 ≤ (running State.reset 0x300).cmd.toNat := by decide

theorem witness_PackOfUnregisteredTagIsUnsupported :
    (running (row 2 6 redGreen) 0x2FF).busy = true ∧ (running (row 2 6 redGreen) 0x2FF).pending = []
      ∧ 0x20B ≤ (running (row 2 6 redGreen) 0x2FF).cmd.toNat ∧ (running (row 2 6 redGreen) 0x2FF).cmd.toNat ≤ 0x2FF := by
  decide

theorem witness_NoCommandWritesDstAtOrAboveDstLen :
    (row 2 6 redGreen).opDstLen ≤ 6 ∧ (∃ i t, exec i (row 2 6 redGreen) = .next t)
      ∧ ∃ t, (running (row 2 6 redGreen) 0x20B).runCommand = .next t :=
  ⟨by decide, ⟨.packRgb10xBe, _, rfl⟩, ⟨_, rfl⟩⟩

theorem witness_ErrorCompletionKeepsEverythingElse :
    (∃ t, (running (row 2 6 redGreen) 0x208).runCommand = .next t ∧ t.err = true)
      ∧ (∃ t, (running (row 2 6 redGreen) 0x00B).runCommand = .next t ∧ t.err = true)
      ∧ (running (row 2 6 redGreen) 0x208).opDstLen ≤ 6 :=
  ⟨⟨_, rfl, by decide⟩, ⟨_, rfl, by decide⟩, by decide⟩

theorem witness_OnlyPackChangesDst :
    isPackInstr (.describe 3) = false ∧ ∃ t, exec (.describe 3) (row 2 6 redGreen) = .next t :=
  ⟨by decide, _, rfl⟩

/-- A STRIDE that changes RESULT and a DESCRIBE that changes DESC. -/
theorem witness_ResultRegistersChangeOnlyByTheirOwnCommand :
    (∃ t, exec (.stride 0) (row 2 6 redGreen) = .next t ∧ t.result ≠ (row 2 6 redGreen).result)
      ∧ ∃ t, exec (.describe 0) (row 2 6 redGreen) = .next t ∧ t.desc ≠ (row 2 6 redGreen).desc :=
  ⟨⟨_, rfl, by decide⟩, ⟨_, rfl, by decide⟩⟩

theorem witness_DescribeWritesTheDescriptorAndTheName :
    encodedDescriptors.map (fun e => e.1) = [0, 1, 2, 3, 4, 5, 6, 7, 8, 9, 10]
      ∧ (3, 0x0401053A#32, 0x3031424752#128) ∈ encodedDescriptors :=
  ⟨rfl, by simp [encodedDescriptors]⟩

theorem witness_DescribeOfUnregisteredTagIsUnsupported : 10 < 11 ∧ (Instr.describe 11).wellFormed = true := by decide

theorem witness_StrideWritesTheMinimumStride :
    10 < 255 ∧ tagOfCode 10 = some .yuva10_422 ∧ (frame 0 0 0 0 0 []).opWidth ≤ 0
      ∧ (frame 0x80000000 0 0 0 0 []).opWidth ≤ 0 ∧ 0 < (frame 1 0 0 0 0 []).opWidth := by decide

theorem witness_MinStridePropertiesHold : 1 ≤ 1 ∧ (descRead .rgb8).groupPixels = 1 ∧ 1 < 2 ^ 31 := by decide

theorem witness_RescaleLaws : 8 ∈ [8, 10, 12] ∧ 12 ∈ [8, 10, 12] ∧ (65534#16).toNat ≤ (65535#16).toNat := by decide

/-- Yellow has a negative U sum and a positive V sum, blue the other way round, white is a grey (43_color_converter.md R148). -/
theorem witness_YuvMatrixWithNormativeOffsets :
    (112 * 0 + 128 - 38 * 255 - 74 * 255 : Int) < 0 ∧ (0 : Int) ≤ 112 * 255 + 128 - 94 * 255 - 18 * 0
      ∧ (0 : Int) ≤ 112 * 255 + 128 - 38 * 0 - 74 * 0 ∧ (112 * 0 + 128 - 94 * 0 - 18 * 255 : Int) < 0 := by decide

/-- Yellow's U sum is −28432, in the 256 from −112 × 256 on; with these offsets the three outcomes occur. -/
theorem witness_YuvMatrixClampsForAnyOffsets :
    256 * (-112 : Int) ≤ -28432 ∧ (-28432 : Int) < 256 * (-112) + 256
      ∧ (-112 + 111 : Int) < 0 ∧ (255 : Int) < -112 + 368 ∧ (0 : Int) ≤ -112 + 112 ∧ (-112 + 367 : Int) ≤ 255 := by decide

theorem witness_PackRgb8WritesRedGreenBlue :
    (row 2 6 redGreen).PackReady 1 3 ∧ (row 2 6 redGreen).hazards = .none ∧ 0 < (row 2 6 redGreen).opHeight.toNat
      ∧ 1 < (row 2 6 redGreen).opWidth.toNat := by
  unfold State.PackReady; decide

theorem witness_PackArgb8WritesAlphaRedGreenBlue :
    (row 2 8 redGreen).PackReady 1 4 ∧ (row 2 8 redGreen).hazards = .none := by unfold State.PackReady; decide

theorem witness_PackBgra8WritesBlueGreenRedAlpha :
    (frame 2 1 12 6 13 redGreen).PackReady 1 4 ∧ (frame 2 1 12 6 13 redGreen).hazards = .none := by
  unfold State.PackReady; decide

theorem witness_PackRgb10WritesBigEndianWords :
    (row 3 12 abc).PackReady 1 4 ∧ (row 3 12 abc).hazards = .none := by unfold State.PackReady; decide

theorem witness_PackRgb12BeWritesPairsHighPartFirst :
    (row 3 18 abc).PackReady 2 9 ∧ (row 3 18 abc).hazards = .none ∧ 2 * 1 < (row 3 18 abc).opWidth.toNat := by
  unfold State.PackReady; decide

theorem witness_PackRgb12LeWritesPairsLowPartFirst :
    (row 2 9 abc).PackReady 2 9 ∧ (row 2 9 abc).hazards = .none ∧ 2 * 0 < (row 2 9 abc).opWidth.toNat := by
  unfold State.PackReady; decide

theorem witness_PackYuv8WritesMacroPixels :
    (row 3 8 abc).PackReady 2 4 ∧ (row 3 8 abc).hazards = .none ∧ 2 * 1 < (row 3 8 abc).opWidth.toNat := by
  unfold State.PackReady; decide

theorem witness_PackYuv10WritesLittleEndianWords :
    (row 3 16 abc).PackReady 6 16 ∧ (row 3 16 abc).hazards = .none ∧ 6 * 0 < (row 3 16 abc).opWidth.toNat := by
  unfold State.PackReady; decide

/-- With a host write to SRC and one to DST while the command runs. -/
theorem witness_PackCompletesWhateverTheHostDoes :
    (Instr.packRgb8, Tag.rgb8) ∈ implementedPacks
      ∧ { row 2 6 redGreen with hazards := ⟨[(0, 1)], [2]⟩ }.PackReady (descRead .rgb8).groupPixels
        (descRead .rgb8).groupBytes := by
  unfold State.PackReady; decide

/-- The operands of a PACK.ARGB8 (groups of one pixel and four bytes), as the clauses of the priority ask for them. -/
def argbStrideOk (s : State) : Prop := ceilDiv s.opWidth.toNat 1 * 4 ≤ s.opRowStride ∧ s.opRowStride % 4 = 0

/-- One state for each clause, each at the edge of the one before: WIDTH 0; HEIGHT 0; stride one byte short; stride off the
group; DST_LEN one byte short; SRC_LEN one sample long. -/
theorem witness_PackReportsTheFirstErrorOfThePriority :
    (Instr.packArgb8, Tag.argb8) ∈ implementedPacks
      ∧ (frame 0 1 8 6 8 []).opWidth ≤ 0 ∧ (frame 2 0 8 6 8 []).opHeight ≤ 0
      ∧ (let s := frame 2 1 7 6 8 []
        0 < s.opWidth ∧ 0 < s.opHeight ∧ ¬ argbStrideOk s)
      ∧ (let s := frame 2 1 9 6 9 []
        0 < s.opWidth ∧ 0 < s.opHeight ∧ ¬ argbStrideOk s)
      ∧ (let s := frame 2 1 8 7 7 []
        0 < s.opWidth ∧ 0 < s.opHeight ∧ argbStrideOk s ∧ (s.opDstLen : Int) < s.opRowStride * s.opHeight)
      ∧ (let s := frame 2 1 8 7 8 []
        0 < s.opWidth ∧ 0 < s.opHeight ∧ argbStrideOk s ∧ s.opRowStride * s.opHeight ≤ (s.opDstLen : Int)
          ∧ (s.opSrcLen : Int) ≠ s.opWidth * s.opHeight * 3) := by
  unfold argbStrideOk; decide

theorem witness_PackOfUnimplementedTagIsUnsupported :
    Instr.packYuva10_422 ∈ [Instr.packRgb10xBe, .packRgb10xLe, .packYuva10_422] := by decide

/-- Groups of two rows interleaved, rows the other way round, groups of a row the other way round; and a PACK that runs. -/
theorem witness_OrderOfRowsAndGroupsIsUnobservable :
    let s := frame 2 2 6 12 12 []
    s.PackReady (descRead .rgb8).groupPixels (descRead .rgb8).groupBytes
      ∧ [(1, 0), (0, 1), (1, 1), (0, 0)].Perm (s.frameGroups (descRead .rgb8))
      ∧ [1, 0].Perm (List.range s.opHeight.toNat) ∧ [0, 1].Perm [1, 0]
      ∧ (Instr.packRgb8, Tag.rgb8) ∈ implementedPacks ∧ (groupFunction s.params .rgb8).isSome = true ∧ s.hazards = .none
      ∧ execs .packRgb8 s = true := by
  unfold State.PackReady; decide

/-- Two states with one frame, other contents of DST, another sample beyond the frame and other earlier results. -/
theorem witness_CommandDependsOnlyOnItsInputs :
    let s := row 1 3 [65535, 0, 0, 7]
    let s' := { row 1 3 [65535, 0, 0, 8] with dst := ⟨[(0, 1)], []⟩, result := 5, tick := 9 }
    (s'.width = s.width ∧ s'.height = s.height ∧ s'.rowStride = s.rowStride ∧ s'.srcLen = s.srcLen ∧ s'.dstLen = s.dstLen)
      ∧ s'.params = s.params ∧ (∀ k < s.opWidth.toNat * s.opHeight.toNat * 3, s'.src.read k = s.src.read k)
      ∧ s.hazards = .none ∧ s'.hazards = .none ∧ execs .packRgb8 s = true ∧ execs .packRgb8 s' = true := by
  decide

theorem witness_HostKeepingItsDutiesMakesNoHazard :
    let s := upcoming (row 1 3 abc) [.host (.writeSrc 0 9)]
    s.hostKeepsDuties = true ∧ s.hazards = .none ∧ steps s = true := by decide

theorem witness_UseOfChangedSampleSeesOldOrNew :
    let s := upcoming (running (row 1 3 abc) 0x200) [.host (.writeSrc 0 9)]
    s.pending = .host (.writeSrc 0 9) :: [] ∧ s.busy = true ∧ s.hazards = .none ∧ (1 : Nat) ≠ 0 := by decide

/-- The last sample of row 0, and the first byte of row 1. -/
theorem witness_SrcWriteWhileBusyTouchesOneRow :
    let s := upcoming (running (frame 1 2 3 6 6 redGreen) 0x200) [.host (.writeSrc 2 9)]
    s.busy = true ∧ s.pending = .host (.writeSrc 2 9) :: [] ∧ 3 / s.opRowStride ≠ 2 / (3 * s.opWidth.toNat) := by decide

theorem witness_DstWriteWhileBusyTouchesOneByte :
    let s := running (row 1 3 abc) 0x200
    s.busy = true ∧ (upcoming s [.host (.writeDst 2 9)]).pending = .host (.writeDst 2 9) :: []
      ∧ (upcoming s [.host (.readDst 2)]).pending = .host (.readDst 2) :: [] ∧ (1 : Nat) ≠ 2 := by decide

theorem witness_BuffersAreTheHostsWhileIdle :
    let s := row 1 3 abc
    s.busy = false ∧ (upcoming s [.host (.readSrc 0)]).pending = .host (.readSrc 0) :: []
      ∧ (upcoming s [.host (.readDst 0)]).pending = .host (.readDst 0) :: []
      ∧ (upcoming s [.host (.writeSrc 0 9)]).pending = .host (.writeSrc 0 9) :: []
      ∧ (upcoming s [.host (.writeDst 0 9)]).pending = .host (.writeDst 0 9) :: [] := by decide

/-- A PACK.YUV8_422 on a converter configured with the studio offsets. -/
theorem witness_ParametersNeverChange :
    steps (running { row 1 4 abc with params := ⟨⟨16, 128, 128⟩, 2⟩ } 0x206) = true := by decide

/-- A state that is not the reset state: a PACK running, after an earlier successful STRIDE and DESCRIBE. -/
theorem witness_EveryStepKeepsTheInvariant :
    let s := running { row 2 6 redGreen with result := 6, desc := 0x03010438, descName := 0x38424752 } 0x200
    s.Inv ∧ ∃ t, step s = .next t :=
  ⟨{ dstWf := by decide
     srcWf := by decide
     status := by decide
     fresh := fun h => absurd h (by decide)
     code := fun h => absurd h (by decide)
     result := .inr ⟨.rgb8, 2, by decide, by decide, by decide⟩
     descriptor := .inl (.inr ⟨.rgb8, by decide, by decide⟩)
     hazards := fun h => absurd h (by decide)
     lost := fun r (h : r ∈ []) => by cases h },
    next_of_steps (by decide)⟩

end Sys2Proof.Tests
end

