-- ==== Sys2Proof/Proofs/Scope.lean ====
section
/-! What a step leaves alone whatever the host does: the configuration parameters (00_scope.md R6). And the reset state. -/

namespace Sys2Proof.Machine

/-! ## The frame of a command (10_state.md R22, 60_exceptions.md R215, R216) -/

theorem State.raise_keeps (s : State) (k : CommandKind) (e : ErrorCode) :
    s.OperandsKept (s.raise k e) ∧ s.OutsideKept (s.raise k e) := by
  simp [State.OperandsKept, State.OutsideKept]

/-- Every command completes, and its completion writes no operand register, SRC, parameter or anything of the host's. -/
theorem exec_keeps (i : Instr) (s : State) : ∃ t, exec i s = .next t ∧ s.OperandsKept t ∧ s.OutsideKept t := by
  rcases exec_cases i s with ⟨e, he, -⟩ | ⟨tag, n, -, -, -, he⟩ | ⟨tag, n, -, -, -, -, he⟩ | ⟨tag, pg, -, -, -, he⟩
  · exact ⟨_, he, s.raise_keeps _ e⟩
  · exact ⟨_, he, by simp [State.OperandsKept, State.OutsideKept]⟩
  · exact ⟨_, he, by simp [State.OperandsKept, State.OutsideKept]⟩
  · exact ⟨_, he, by simp [State.OperandsKept, State.OutsideKept, State.packed]⟩

/-- The same of the running command's word, in the opcode table or not (30_encoding.md R85, R87). -/
theorem State.runCommand_keeps (s : State) : ∃ t, s.runCommand = .next t ∧ s.OperandsKept t ∧ s.OutsideKept t := by
  cases h : decode s.cmd with
  | instr i => rw [State.runCommand_of_instr h]; exact exec_keeps i s
  | reject r => exact ⟨_, State.runCommand_of_reject h, s.raise_keeps _ _⟩

/-! ## The parameters through each event -/

theorem State.runCommand_params {s t : State} (h : s.runCommand = .next t) : t.params = s.params := by
  obtain ⟨u, hu, ⟨-, -, -, -, -, -, -, hparams⟩, -⟩ := s.runCommand_keeps
  cases hu.symm.trans h
  exact hparams

theorem State.converterTurn_params {s t : State} (h : s.converterTurn = .next t) : t.params = s.params := by
  cases hb : s.busy with
  | true => exact State.runCommand_params ((State.converterTurn_of_busy hb).symm.trans h)
  | false => cases (State.converterTurn_of_idle hb).symm.trans h; rfl

@[simp] theorem State.earlyResult_params (s : State) (r : Reg) : (s.earlyResult r).params = s.params := by
  unfold State.earlyResult
  split
  · cases r <;> rfl
  · rfl

theorem State.hostReadReg_params {s t : State} {offset : Nat} (h : s.hostReadReg offset = .next t) :
    t.params = s.params := by
  unfold State.hostReadReg at h
  split at h <;> cases h
  · rfl
  · exact s.earlyResult_params _

theorem State.hostWriteReg_params {s t : State} {offset : Nat} {value : BitVec 128}
    (h : s.hostWriteReg offset value = .next t) : t.params = s.params := by
  unfold State.hostWriteReg at h
  split at h
  · cases h
  · cases h; rfl
  · next r _ =>
    split at h
    · cases h; rfl
    · cases r <;> cases h <;> rfl

theorem State.hostPoll_params {s t : State} (h : s.hostPoll = .next t) : t.params = s.params := by
  unfold State.hostPoll at h
  split at h
  · exact (State.runCommand_params h :)
  · split at h <;> cases h <;> rfl

theorem State.hostAct_params {s t : State} {a : HostAction} (h : s.hostAct a = .next t) : t.params = s.params := by
  cases a with
  | writeReg offset value => exact State.hostWriteReg_params h
  | readReg offset => exact State.hostReadReg_params h
  | writeSrc i v => cases h; exact s.hostWriteSrc_params i v
  | readSrc i => cases h; rfl
  | writeDst a v => cases h; exact s.hostWriteDst_params a v
  | readDst a => cases h; exact s.hostReadDst_params a
  | pollDone => exact State.hostPoll_params h
  | writeBack offset factor => exact State.hostWriteReg_params h
  | skipOnError count => cases h; rfl

theorem State.takeEvent_params {s t : State} {e : Event} (h : s.takeEvent e = .next t) : t.params = s.params := by
  cases e with
  | host a => exact State.hostAct_params h
  | converter => exact State.converterTurn_params h
  | reset => cases h; exact s.applyReset_params

/-- Settles O52, by cases on the event the step takes. -/
theorem parametersNeverChange : Obligations.ParametersNeverChange := by
  intro s t h
  cases hp : s.pending with
  | nil => exact State.converterTurn_params ((step_of_pending_nil hp).symm.trans h)
  | cons e rest => exact (State.takeEvent_params ((step_of_pending_cons hp).symm.trans h) :)

/-! ## The reset state (10_state.md R36) -/

/-- A STATUS of 0 reads as an idle converter that has completed nothing (10_state.md R28). -/
theorem State.flags_of_status_zero {s : State} (h : s.status = 0) :
    s.busy = false ∧ s.done = false ∧ s.err = false ∧ s.code = 0 := by
  simp [State.busy, State.done, State.err, State.code, h]

theorem State.reset_registersZero : State.reset.RegistersZero := by
  simp [State.RegistersZero, State.reset]

/-- Settles O16: the flags are those of STATUS = 0. -/
theorem resetStateReadsZeroInEveryRegister : Obligations.ResetStateReadsZeroInEveryRegister := by
  obtain ⟨hbusy, hdone, herr, hcode⟩ := State.flags_of_status_zero (s := .reset) rfl
  exact ⟨State.reset_registersZero, hbusy, hdone, herr, hcode, rfl⟩

end Sys2Proof.Machine
end

/-! What the registers hold (10_state.md): what a host write or read of a register does, which command may change a result
register, what a command depends on, and the invariant that every step keeps. -/

namespace Sys2Proof.Machine

/-! ## The flags of a started command (30_encoding.md R84) -/

@[simp] theorem State.done_start (s : State) (c : Word) : (s.start c).done = false := (statusWord_fields _ _ _ _).2.1
@[simp] theorem State.err_start (s : State) (c : Word) : (s.start c).err = false := (statusWord_fields _ _ _ _).2.2.1
@[simp] theorem State.code_start (s : State) (c : Word) : (s.start c).code = 0 := (statusWord_fields _ _ _ _).2.2.2

/-! ## A host write to a register (10_state.md R21, R22, R27) -/

/-- What a write to register `r` while idle leaves, one case per register of R21: CMD starts a command, an operand register
stores the value at its width, a read-only register ignores it. -/
def State.storeReg (s : State) (v : BitVec 128) : Reg → State
  | .cmd => s.start (v.setWidth 32)
  | .width => { s with width := v.setWidth 32 }
  | .height => { s with height := v.setWidth 32 }
  | .rowStride => { s with rowStride := v.setWidth 64 }
  | .srcLen => { s with srcLen := v.setWidth 64 }
  | .dstLen => { s with dstLen := v.setWidth 64 }
  | .status => s
  | .result => s
  | .desc => s
  | .descName => s

theorem State.hostWriteReg_of_idle {s : State} {offset : Nat} {r : Reg} (hr : regSlot offset = .reg r)
    (hidle : s.busy = false) (v : BitVec 128) : s.hostWriteReg offset v = .next (s.storeReg v r) := by
  unfold State.hostWriteReg
  rw [hr]
  cases r <;> simp [hidle, State.storeReg]

theorem State.hostWriteReg_of_busy {s : State} {offset : Nat} {r : Reg} (hr : regSlot offset = .reg r)
    (hbusy : s.busy = true) (v : BitVec 128) : s.hostWriteReg offset v = .next s := by
  simp [State.hostWriteReg, hr, hbusy]

theorem State.hostWriteReg_of_hole {s : State} {offset : Nat} (h : regSlot offset = .hole) (v : BitVec 128) :
    s.hostWriteReg offset v = .next s := by
  simp [State.hostWriteReg, h]

theorem State.hostWriteReg_of_inside {s : State} {offset : Nat} (h : regSlot offset = .inside) (v : BitVec 128) :
    s.hostWriteReg offset v = .refused (.partialRegisterAccess offset) := by
  simp [State.hostWriteReg, h]

/-- Everything a register write can do: nothing, or the storing of the value while idle. -/
theorem State.hostWriteReg_cases {s t : State} {offset : Nat} {v : BitVec 128} (h : s.hostWriteReg offset v = .next t) :
    t = s ∨ (s.busy = false ∧ ∃ r, t = s.storeReg v r) := by
  cases hslot : regSlot offset with
  | inside => cases (State.hostWriteReg_of_inside hslot v).symm.trans h
  | hole => cases (State.hostWriteReg_of_hole hslot v).symm.trans h; exact .inl rfl
  | reg r =>
    cases hb : s.busy with
    | true => cases (State.hostWriteReg_of_busy hslot hb v).symm.trans h; exact .inl rfl
    | false => cases (State.hostWriteReg_of_idle hslot hb v).symm.trans h; exact .inr ⟨rfl, r, rfl⟩

/-! ## Steps that take a register access (10_state.md R21, R27) -/

theorem step_writeReg {s : State} {offset : Nat} {v : BitVec 128} {rest : List Event}
    (hp : s.pending = .host (.writeReg offset v) :: rest) :
    step s = ({ s with pending := rest }).hostWriteReg offset v :=
  step_of_pending_cons hp

theorem step_readReg {s : State} {offset : Nat} {rest : List Event} (hp : s.pending = .host (.readReg offset) :: rest) :
    step s = ({ s with pending := rest }).hostReadReg offset :=
  step_of_pending_cons hp

/-- A write to a register while idle stores the value there. -/
theorem step_writeReg_of_idle {s : State} {v : BitVec 128} {rest : List Event} (r : Reg) (hidle : s.busy = false)
    (hp : s.pending = .host (.writeReg r.offset v) :: rest) :
    step s = .next (({ s with pending := rest }).storeReg v r) := by
  rw [step_writeReg hp, State.hostWriteReg_of_idle (s := { s with pending := rest }) (regSlot_offset r) hidle]

/-- Settles O8: the write stores CMD and starts the command. -/
theorem writeToCmdWhileIdleStartsTheCommand : Obligations.WriteToCmdWhileIdleStartsTheCommand := by
  intro s c rest hidle hp
  refine ⟨_, step_writeReg_of_idle .cmd hidle hp, ?_⟩
  simp [State.storeReg, State.ResultsKept]

/-- Settles O11: one case of `State.storeReg` per operand register. -/
theorem writeToOperandRegisterStoresIt : Obligations.WriteToOperandRegisterStoresIt := by
  intro s v rest hidle
  exact ⟨step_writeReg_of_idle .width hidle, step_writeReg_of_idle .height hidle, step_writeReg_of_idle .rowStride hidle,
    step_writeReg_of_idle .srcLen hidle, step_writeReg_of_idle .dstLen hidle⟩

/-- A write to a read-only register is ignored, whether a command runs or not. -/
theorem State.hostWriteReg_readOnly (s : State) {r : Reg} (hr : r ∈ [Reg.status, .result, .desc, .descName])
    (v : BitVec 128) : s.hostWriteReg r.offset v = .next s := by
  cases hb : s.busy with
  | true => exact State.hostWriteReg_of_busy (regSlot_offset r) hb v
  | false =>
    have hstore : s.storeReg v r = s := by
      cases r with
      | status | result | desc | descName => rfl
      | cmd | width | height | rowStride | srcLen | dstLen => simp at hr
    rw [State.hostWriteReg_of_idle (regSlot_offset r) hb, hstore]

theorem State.hostReadReg_of_hole (s : State) {offset : Nat} (h : regSlot offset = .hole) :
    s.hostReadReg offset = .next { s with readData := 0 } := by
  simp [State.hostReadReg, h]

/-- Settles O12, by the register map: each offset is that of a read-only register or a hole. -/
theorem writesOutsideTheWritableRegistersAreIgnored : Obligations.WritesOutsideTheWritableRegistersAreIgnored := by
  intro s offset v rest
  have hhole : (0x34 ≤ offset ∧ offset ≤ 0x3F) ∨ 0x50 ≤ offset → regSlot offset = .hole := fun h =>
    regSlot_eq_hole.2 (h.imp_left (And.imp_right Nat.lt_succ_of_le))
  refine ⟨fun h hp => ?_, fun h hp => ?_⟩
  · rw [step_writeReg hp]
    rcases h with h | h
    · obtain ⟨r, hr, rfl⟩ : ∃ r ∈ [Reg.status, .result, .desc, .descName], r.offset = offset :=
        List.mem_map.1 (show offset ∈ [Reg.status, .result, .desc, .descName].map Reg.offset from h)
      exact State.hostWriteReg_readOnly _ hr v
    · exact State.hostWriteReg_of_hole (hhole h) v
  · rw [step_readReg hp, State.hostReadReg_of_hole _ (hhole h)]

/-- Settles O13: `State.hostReadReg_offset`, for the registers that read so at any time and for the result registers while idle. -/
theorem registerReadReturnsTheRegister : Obligations.RegisterReadReturnsTheRegister := by
  intro s offset v rest hp
  have hread (l : List Reg) (hl : ∀ r ∈ l, s.busy = false ∨ r ∉ [Reg.result, .desc, .descName])
      (hmem : (offset, v) ∈ l.map fun r => (r.offset, s.regValue r)) :
      step s = .next { s with pending := rest, readData := v } := by
    obtain ⟨r, hr, heq⟩ := List.mem_map.1 hmem
    cases heq
    rw [step_readReg hp, State.hostReadReg_offset (s := { s with pending := rest }) (hl r hr)]
    cases r <;> rfl
  exact ⟨hread [.cmd, .status, .width, .height, .rowStride, .srcLen, .dstLen] (fun r hr => .inr (by revert r; decide)),
    fun hidle => hread [.result, .desc, .descName] fun _ _ => .inl hidle⟩

/-! ## Which command changes a result register (10_state.md R29 to R31) -/

/-- A command that changes a result register is the successful STRIDE or DESCRIBE of a registered tag. -/
theorem exec_result_changes {i : Instr} {s t : State} (h : exec i s = .next t) :
    (t.result ≠ s.result → (∃ n ≤ 10, i = .stride n) ∧ t.err = false)
      ∧ (t.desc ≠ s.desc ∨ t.descName ≠ s.descName → (∃ n ≤ 10, i = .describe n) ∧ t.err = false) := by
  rcases exec_cases i s with ⟨e, he, -⟩ | ⟨tag, n, hn, rfl, -, he⟩ | ⟨tag, n, hn, rfl, -, -, he⟩ | ⟨tag, pg, -, -, -, he⟩
  · cases he.symm.trans h
    simp
  · cases he.symm.trans h
    exact ⟨by simp, fun _ => ⟨⟨n, hn, rfl⟩, State.err_completeOk _⟩⟩
  · cases he.symm.trans h
    exact ⟨fun _ => ⟨⟨n, hn, rfl⟩, State.err_completeOk _⟩, by simp⟩
  · cases he.symm.trans h
    simp [State.packed]

/-- Settles O24: `exec_result_changes` without the range of the tag. -/
theorem resultRegistersChangeOnlyByTheirOwnCommand : Obligations.ResultRegistersChangeOnlyByTheirOwnCommand := by
  intro i s t h
  obtain ⟨hresult, hdesc⟩ := exec_result_changes h
  exact ⟨fun hne => (hresult hne).imp_left fun ⟨n, _, hi⟩ => ⟨n, hi⟩,
    fun hne => (hdesc hne).imp_left fun ⟨n, _, hi⟩ => ⟨n, hi⟩⟩

/-- A running command that is no DESCRIBE of a registered tag leaves DESC and DESC_NAME alone. -/
theorem State.runCommand_keeps_desc {s t : State} (h : s.runCommand = .next t) (hn : ¬ DescribesRegisteredTag s.cmd) :
    t.desc = s.desc ∧ t.descName = s.descName := by
  cases hd : decode s.cmd with
  | reject r => cases (State.runCommand_of_reject hd).symm.trans h; exact ⟨rfl, rfl⟩
  | instr i =>
    have hi : ¬ ∃ n ≤ 10, i = .describe n := fun ⟨n, hle, hi⟩ => hn ⟨n, hle, by rw [hd, hi]⟩
    have hchg := (exec_result_changes ((State.runCommand_of_instr hd).symm.trans h)).2
    exact ⟨by_contra fun hne => hi (hchg (.inl hne)).1, by_contra fun hne => hi (hchg (.inr hne)).1⟩

/-! ## What a descriptor word reads back as (10_state.md R30, 40_descriptor_table.md R101) -/

/-- A number below 2 read as a bit is the bit it came from. -/
theorem getLsbD_eq_of_div_mod {w : Word} {i : Nat} {b : Bool} (h : w.toNat / 2 ^ i % 2 = b.toNat) : w.getLsbD i = b := by
  rw [BitVec.getLsbD, Nat.testBit_eq_decide_div_mod_eq, h]
  cases b <;> rfl

/-- The fields of a row that fits read back at their places, and bit 11 is 0. -/
theorem encodeDesc_fields {d : Descriptor} (h : d.Fits) :
    ((encodeDesc d).extractLsb' 0 4).toNat = d.depth ∧ ((encodeDesc d).extractLsb' 4 3).toNat = d.ncomp
      ∧ ((encodeDesc d).extractLsb' 7 1).toNat = d.subsamp.code ∧ ((encodeDesc d).extractLsb' 8 2).toNat = d.endian.code
      ∧ (encodeDesc d).getLsbD 10 = d.impl ∧ (encodeDesc d).getLsbD 11 = false
      ∧ ((encodeDesc d).extractLsb' 12 4).toNat = d.order.code ∧ ((encodeDesc d).extractLsb' 16 8).toNat = d.groupPixels
      ∧ ((encodeDesc d).extractLsb' 24 8).toNat = d.groupBytes := by
  have hsum := encodeDesc_toNat h
  obtain ⟨hdepth, hncomp, hgp, hgb⟩ := h
  have hsubsamp := d.subsamp.code_lt
  have hendian := d.endian.code_lt
  have horder := d.order.code_lt
  have himpl := Bool.toNat_lt d.impl
  simp only [BitVec.extractLsb'_toNat, Nat.shiftRight_eq_div_pow]
  have hbit11 : (encodeDesc d).getLsbD 11 = false := getLsbD_eq_of_div_mod (by rw [Bool.toNat_false]; omega)
  refine ⟨?_, ?_, ?_, ?_, getLsbD_eq_of_div_mod ?_, hbit11, ?_, ?_, ?_⟩ <;> omega

/-- The tags with a group function are those the table marks implemented (R111). -/
theorem impl_iff_groupFunction (c : Parameters) (tag : Tag) :
    (descRead tag).impl = true ↔ (groupFunction c tag).isSome = true := by
  cases tag <;> simp [descRead, groupFunction]

/-- Settles O27: every row of the table fits its fields. -/
theorem descriptorFieldsReadBackFromDesc : Obligations.DescriptorFieldsReadBackFromDesc := by
  intro c tag
  obtain ⟨hdepth, hncomp, hsubsamp, hendian, himpl, hbit11, horder, hgp, hgb⟩ := encodeDesc_fields (descRead_fits tag)
  exact ⟨hdepth, hncomp, hsubsamp, hendian, himpl, hbit11, horder, hgp, hgb,
    by rw [himpl]; exact impl_iff_groupFunction c tag⟩

/-! ## What a command depends on (10_state.md R34, R35) -/

/-- An address that R54 does not leave out lies in the write set. -/
theorem State.inWriteSet_of_not_outside {s : State} {d : Descriptor} {a : Nat}
    (hready : s.PackReady d.groupPixels d.groupBytes) (ha : ¬ s.OutsideWriteSet d.groupPixels d.groupBytes a) :
    s.inWriteSet d a = true := by
  obtain ⟨-, -, hfit, -, -, -⟩ := hready
  unfold State.OutsideWriteSet at ha
  push Not at ha
  obtain ⟨y, hy, hlo, hhi⟩ := ha
  have hrow : a / s.opRowStride = y := Nat.div_eq_of_lt_le hlo (by rw [Nat.add_mul, Nat.one_mul]; omega)
  have hcol : a % s.opRowStride = a - y * s.opRowStride := by rw [Nat.mod_eq_sub_mul_div, hrow, Nat.mul_comm]
  rw [State.inWriteSet_iff, hrow, hcol, State.rowGroups]
  omega

/-- A pixel inside the frame has all its samples inside the frame (20_memory.md R51). -/
theorem sampleIndex_lt {w h y x c : Nat} (hy : y < h) (hx : x < w) (hc : c < 3) :
    sampleIndex w y x c < w * h * 3 := by
  have hmul : (y + 1) * w ≤ h * w := Nat.mul_le_mul_right w hy
  rw [Nat.add_mul, Nat.one_mul] at hmul
  rw [sampleIndex, Nat.mul_comm w h]
  omega

/-- Two states with the same frame have the same slots in every row of it. -/
theorem State.slotPixel_congr {s u : State} (hw : u.width = s.width)
    (hsrc : ∀ k < s.opWidth.toNat * s.opHeight.toNat * 3, u.src.read k = s.src.read k) {y : Nat}
    (hy : y < s.opHeight.toNat) (x : Nat) : u.slotPixel y x = s.slotPixel y x := by
  have hwidth : u.opWidth = s.opWidth := by rw [State.opWidth, State.opWidth, hw]
  unfold State.slotPixel State.pixelAt
  rw [hwidth]
  split
  · next hx =>
    have hread (c : Nat) (hc : c < 3) := hsrc _ (sampleIndex_lt hy hx hc)
    simp only [sampleIndex] at hread
    have hred := hread 0 (by decide)
    rw [Nat.add_zero] at hred
    simp only [hred, hread 1 (by decide), hread 2 (by decide)]
  · rfl

/-- What the packer gives a byte of a row of the frame, when the host left the buffers alone (R56). -/
theorem State.packedByte_congr {s u : State} (hw : u.width = s.width) (hrs : u.rowStride = s.rowStride)
    (hsrc : ∀ k < s.opWidth.toNat * s.opHeight.toNat * 3, u.src.read k = s.src.read k)
    (hs : s.hazards = .none) (hu : u.hazards = .none) (d : Descriptor) (pg : Slots → List Byte) {a : Nat}
    (ha : a / s.opRowStride < s.opHeight.toNat) : u.packedByte d pg a = s.packedByte d pg a := by
  have hstride : u.opRowStride = s.opRowStride := by rw [State.opRowStride, State.opRowStride, hrs]
  unfold State.packedByte
  rw [hstride]
  congr 2
  funext k use
  rw [State.slots_of_no_stale (by rw [hu]; rfl), State.slots_of_no_stale (by rw [hs]; rfl),
    State.slotPixel_congr hw hsrc ha]

/-- After a successful PACK with no hazard a byte of the write set is the packer's. -/
theorem State.read_packed_of_inWriteSet {s : State} {d : Descriptor} {pg : Slots → List Byte} (hgb : 0 < d.groupBytes)
    (hgp : 0 < d.groupPixels) (hready : s.PackReady d.groupPixels d.groupBytes) (hs : s.hazards = .none) {a : Nat}
    (ha : s.inWriteSet d a = true) : (s.packed d pg).dst.read a = s.packedByte d pg a := by
  rw [State.read_packed hgb hgp hready, if_pos ha, if_neg (by simp [hs, Hazards.none])]

/-- What R201 says of an implemented PACK: it may complete OK, and it is no DESCRIBE. -/
theorem implementedPacks_isPack_mayReport_ok :
    ∀ p ∈ implementedPacks, isPackInstr p.1 = true ∧ 0 ∈ mayReport (.instr p.1) := by
  decide

theorem implementedPacks_tag_unique : ∀ p ∈ implementedPacks, ∀ q ∈ implementedPacks, p.1 = q.1 → p.2 = q.2 := by decide

/-- Settles O46: `exec_together` says that both states complete the same way; for a PACK, each byte of the write set is then the
packer's on the same slots. -/
theorem commandDependsOnlyOnItsInputs : Obligations.CommandDependsOnlyOnItsInputs := by
  intro i s u t t' hw hh hrs hsl hdl hparams hsrc hs hu ht ht'
  have hnoPack : isPackInstr i = false → ∀ p ∈ implementedPacks, p.1 ≠ i := by
    rintro hi p hp rfl
    exact absurd (implementedPacks_isPack_mayReport_ok p hp).1 (by simp [hi])
  rcases exec_together i hw hh hrs hsl hdl hparams with
      ⟨e, k, he, he'⟩ | ⟨tag, ⟨n, rfl⟩, he, he'⟩ | ⟨r, ⟨n, rfl⟩, he, he'⟩ | ⟨tag, pg, hp, -, hready, hready', he, he'⟩
  · cases he.symm.trans ht
    cases he'.symm.trans ht'
    exact ⟨rfl, fun herr => by simp at herr⟩
  · cases he.symm.trans ht
    cases he'.symm.trans ht'
    exact ⟨rfl, fun _ => ⟨nofun, fun _ => ⟨rfl, rfl⟩, fun p hp hi => absurd hi (hnoPack rfl p hp)⟩⟩
  · cases he.symm.trans ht
    cases he'.symm.trans ht'
    exact ⟨rfl, fun _ => ⟨fun _ => rfl, nofun, fun p hp hi => absurd hi (hnoPack rfl p hp)⟩⟩
  · cases he.symm.trans ht
    cases he'.symm.trans ht'
    have hpack := (implementedPacks_isPack_mayReport_ok _ hp).1
    refine ⟨rfl, fun _ => ⟨?_, ?_, fun q hq hi a ha => ?_⟩⟩
    · rintro ⟨n, rfl⟩; cases hpack
    · rintro ⟨n, rfl⟩; cases hpack
    · rw [implementedPacks_tag_unique q hq _ hp hi] at ha
      have hin := State.inWriteSet_of_not_outside hready ha
      have hin' : u.inWriteSet (descRead tag) a = true := by
        rwa [State.inWriteSet, State.opRowStride, State.opHeight, State.opWidth, hrs, hh, hw]
      rw [State.completeOk_dst, State.completeOk_dst,
        State.read_packed_of_inWriteSet (groupBytes_pos tag) (groupPixels_pos tag) hready hs hin,
        State.read_packed_of_inWriteSet (groupBytes_pos tag) (groupPixels_pos tag) hready' hu hin',
        State.packedByte_congr hw hrs hsrc hs hu _ _ (State.inWriteSet_iff.1 hin).1]

/-! ## The invariant: the reset state -/

/-- Settles O53: the reset state is idle, has completed nothing, and lists nothing in SRC or DST. -/
theorem resetStateMeetsTheInvariant : Obligations.ResetStateMeetsTheInvariant where
  dstWf := rfl
  srcWf := rfl
  status := List.mem_cons_self
  fresh _ := ⟨rfl, rfl, rfl, rfl⟩
  code hdone := absurd hdone (by decide)
  result := .inl rfl
  descriptor := .inl (.inl ⟨rfl, rfl⟩)
  hazards _ := rfl
  lost _ hr := absurd hr List.not_mem_nil

/-! ## The invariant: what each completion keeps -/

theorem statusError_mem_statusValues (e : ErrorCode) : statusError e ∈ statusValues := by cases e <;> decide

theorem statusError_ne_zero (e : ErrorCode) : statusError e ≠ 0 := by cases e <;> decide

theorem errorCode_toNat_ne_zero (e : ErrorCode) : e.code.toNat ≠ 0 := by cases e <;> decide

/-- Each row of the descriptor table gives a stride that fits RESULT (41_row_stride.md R121). -/
theorem minStride_lt (tag : Tag) {w : Nat} (hw : w < 2 ^ 31) :
    minStride (descRead tag).groupPixels (descRead tag).groupBytes w < 2 ^ 64 := by
  have hgp := groupPixels_le tag
  have hgroups : ceilDiv w (descRead tag).groupPixels ≤ 2 ^ 31 + 254 := (Nat.div_le_self _ _).trans (by omega)
  have hmul := Nat.mul_le_mul hgroups (groupBytes_le tag)
  unfold minStride
  omega

theorem State.opWidth_toNat_lt (s : State) : s.opWidth.toNat < 2 ^ 31 := by
  have := BitVec.toInt_lt (x := s.width)
  unfold State.opWidth
  omega

/-- What a successful STRIDE of a registered tag leaves in RESULT is a stride (R29, 41_row_stride.md R122). -/
theorem legalResult_of_stride {s : State} (tag : Tag) (hw : 0 < s.opWidth) :
    LegalResult (BitVec.ofNat 64 (minStride (descRead tag).groupPixels (descRead tag).groupBytes s.opWidth.toNat)) :=
  .inr ⟨tag, s.opWidth.toNat, by omega, s.opWidth_toNat_lt, by
    rw [BitVec.toNat_ofNat, Nat.mod_eq_of_lt (minStride_lt tag s.opWidth_toNat_lt)]⟩

/-- Only while a DESCRIBE of a registered tag runs may DESC and DESC_NAME disagree (R249). -/
theorem State.Inv.legalDescriptor {s : State} (h : s.Inv) (hn : ¬ (s.busy = true ∧ DescribesRegisteredTag s.cmd)) :
    LegalDescriptor s.desc s.descName :=
  h.descriptor.resolve_right hn

theorem not_describesRegisteredTag_of_decode {c : Word} {i : Instr} (hd : decode c = .instr i)
    (hi : ∀ n ≤ 10, i ≠ .describe n) : ¬ DescribesRegisteredTag c := by
  rintro ⟨n, hn, hc⟩
  rw [hd] at hc
  cases hc
  exact hi n hn rfl

/-- The free bytes of a failed or reset command have the number `tick`, so all numbers stay below the next one (log 6). -/
theorem State.Inv.lost_dstAfterFailure {s : State} (h : s.Inv) (k : CommandKind) :
    ∀ r ∈ (s.dstAfterFailure k).lost, r.id < s.tick + 1 := by
  intro r hr
  cases k with
  | other => exact Nat.lt_succ_of_lt (h.lost r hr)
  | pack =>
    rcases Memory.mem_lost_lose hr with hr | rfl
    · exact Nat.lt_succ_of_lt (h.lost r hr)
    · exact Nat.lt_succ_self _

/-- An error completion with a code R201 allows for CMD keeps the invariant (60_exceptions.md R216). -/
theorem State.Inv.raise {s : State} (h : s.Inv) (k : CommandKind) {e : ErrorCode}
    (he : e.code.toNat ∈ mayReport (decode s.cmd)) : (s.raise k e).Inv where
  dstWf := State.wf_dstAfterFailure k h.dstWf
  srcWf := h.srcWf
  status := statusError_mem_statusValues e
  fresh hzero := absurd hzero (statusError_ne_zero e)
  code _ := by rwa [State.code_raise]
  result := h.result
  descriptor := by
    refine .inl (h.legalDescriptor ?_)
    rintro ⟨-, n, hn, hd⟩
    rw [hd] at he
    simp [mayReport, hn, errorCode_toNat_ne_zero] at he
  hazards _ := rfl
  lost := h.lost_dstAfterFailure k

/-- A successful completion keeps the invariant when what the command left in the result registers and DST is legal
(60_exceptions.md R215). -/
theorem State.Inv.completeOk {s : State} (hdst : s.dst.wf = true) (hsrc : s.src.wf = true)
    (hcode : 0 ∈ mayReport (decode s.cmd)) (hresult : LegalResult s.result)
    (hdesc : LegalDescriptor s.desc s.descName) (hlost : ∀ r ∈ s.dst.lost, r.id ≤ s.tick) : s.completeOk.Inv where
  dstWf := hdst
  srcWf := hsrc
  status := by simp [statusValues]
  fresh := by simp
  code _ := by rw [State.code_completeOk]; exact hcode
  result := hresult
  descriptor := .inl hdesc
  hazards _ := rfl
  lost r hr := Nat.lt_succ_of_le (hlost r hr)

/-- A successful PACK leaves DST in its canonical form, with no number of a free byte above `tick`. -/
theorem State.Inv.packed {s : State} (h : s.Inv) (d : Descriptor) (pg : Slots → List Byte) :
    (s.packed d pg).dst.wf = true ∧ ∀ r ∈ (s.packed d pg).dst.lost, r.id ≤ s.tick := by
  refine ⟨State.wf_loseTouched (State.wf_packRows _ h.dstWf), fun r hr => ?_⟩
  rcases State.mem_lost_loseTouched hr with hr | hr
  · rw [State.lost_packRows] at hr
    exact (h.lost r hr).le
  · exact hr.le

/-- A command in CMD completes in a state of the invariant. -/
theorem State.Inv.exec {s t : State} {i : Instr} (h : s.Inv) (hd : decode s.cmd = .instr i)
    (ht : exec i s = .next t) : t.Inv := by
  have hlost : ∀ r ∈ s.dst.lost, r.id ≤ s.tick := fun r hr => (h.lost r hr).le
  have hkept : (∀ n ≤ 10, i ≠ .describe n) → LegalDescriptor s.desc s.descName := fun hi =>
    h.legalDescriptor fun hdesc => not_describesRegisteredTag_of_decode hd hi hdesc.2
  rcases exec_cases i s with
      ⟨e, he, hcode⟩ | ⟨tag, n, hn, rfl, -, he⟩ | ⟨tag, n, hn, rfl, -, hw, he⟩ | ⟨tag, pg, hp, -, -, he⟩
  · cases he.symm.trans ht
    exact h.raise _ (by rwa [hd])
  · cases he.symm.trans ht
    exact State.Inv.completeOk h.dstWf h.srcWf (by simp [hd, mayReport, hn]) h.result (.inr ⟨tag, rfl, rfl⟩) hlost
  · cases he.symm.trans ht
    exact State.Inv.completeOk h.dstWf h.srcWf (by simp [hd, mayReport, hn]) (legalResult_of_stride tag hw)
      (hkept (by simp)) hlost
  · cases he.symm.trans ht
    obtain ⟨hpack, hcode⟩ := implementedPacks_isPack_mayReport_ok _ hp
    obtain ⟨hdst, hlost⟩ := h.packed (descRead tag) pg
    exact State.Inv.completeOk hdst h.srcWf (by rwa [← hd] at hcode) h.result
      (hkept (by rintro n - rfl; cases hpack)) hlost

/-- So does a word outside the table, with the code of 30_encoding.md R87. -/
theorem State.Inv.runCommand {s t : State} (h : s.Inv) (ht : s.runCommand = .next t) : t.Inv := by
  cases hd : decode s.cmd with
  | instr i => exact h.exec hd ((State.runCommand_of_instr hd).symm.trans ht)
  | reject r =>
    cases (State.runCommand_of_reject hd).symm.trans ht
    exact h.raise _ (by rw [hd]; cases r <;> decide)

theorem State.runCommand_eq_commandEnd (s : State) : s.runCommand = .next s.commandEnd := by
  obtain ⟨t, ht, -⟩ := s.runCommand_keeps
  rw [State.commandEnd, ht]

theorem State.Inv.commandEnd {s : State} (h : s.Inv) : s.commandEnd.Inv := h.runCommand s.runCommand_eq_commandEnd

/-! ## The invariant: what each event keeps -/

/-- The invariant does not speak of the events to come and of what the host last read. -/
theorem State.Inv.outside {s : State} (h : s.Inv) (l : List Event) (v : BitVec 128) :
    State.Inv { s with pending := l, readData := v } := { h with }

/-- A command start keeps the invariant (30_encoding.md R84): before it DESC and DESC_NAME were of one tag. -/
theorem State.Inv.start {s : State} (h : s.Inv) (hidle : s.busy = false) (c : Word) : (s.start c).Inv := by
  have hdesc := h.legalDescriptor (by simp [hidle])
  exact { h with
    status := by simp [statusValues]
    fresh := by simp
    code := by simp
    descriptor := .inl hdesc
    hazards := fun _ => rfl }

theorem State.Inv.storeReg {s : State} (h : s.Inv) (hidle : s.busy = false) (v : BitVec 128) (r : Reg) :
    (s.storeReg v r).Inv := by
  cases r with
  | cmd => exact h.start hidle _
  | width | height | rowStride | srcLen | dstLen => exact { h with }
  | status | result | desc | descName => exact h

theorem State.Inv.hostWriteReg {s t : State} {offset : Nat} {v : BitVec 128} (h : s.Inv)
    (ht : s.hostWriteReg offset v = .next t) : t.Inv := by
  rcases State.hostWriteReg_cases ht with rfl | ⟨hidle, r, rfl⟩
  · exact h
  · exact h.storeReg hidle v r

/-- While a command runs the result registers may take new values, if RESULT is a stride and DESC and DESC_NAME are of one tag
or a DESCRIBE is bringing in new ones. -/
theorem State.Inv.newResults {s : State} (h : s.Inv) (hbusy : s.busy = true) {r : BitVec 64} {d : Word} {n : BitVec 128}
    (hr : LegalResult r) (hd : LegalDescriptor d n ∨ DescribesRegisteredTag s.cmd) :
    State.Inv { s with result := r, desc := d, descName := n, tick := s.tick + 1 } :=
  { h with
    fresh := fun hzero => absurd hbusy (by simp [(State.flags_of_status_zero (s := s) hzero).1])
    result := hr
    descriptor := hd.imp_right fun hdesc => ⟨hbusy, hdesc⟩
    lost := fun l hl => Nat.lt_succ_of_lt (h.lost l hl) }

/-- While a command runs, DESC and DESC_NAME taken each from before or from the command's end are of one tag, unless a DESCRIBE is
bringing in new ones (R249). -/
theorem State.Inv.oldOrNewDescriptor {s : State} (h : s.Inv) {d : Word} {n : BitVec 128}
    (hd : d = s.commandEnd.desc ∨ d = s.desc) (hn : n = s.commandEnd.descName ∨ n = s.descName) :
    LegalDescriptor d n ∨ DescribesRegisteredTag s.cmd := by
  by_cases hdescribe : DescribesRegisteredTag s.cmd
  · exact .inr hdescribe
  · obtain ⟨hdesc, hname⟩ := State.runCommand_keeps_desc s.runCommand_eq_commandEnd hdescribe
    rw [hdesc, or_self] at hd
    rw [hname, or_self] at hn
    subst hd hn
    exact .inl (h.legalDescriptor fun hrun => hdescribe hrun.2)

/-- An early read of a result register keeps the invariant: the value read is the old one or that of the command's end (R249). -/
theorem State.Inv.earlyResult {s : State} (h : s.Inv) (r : Reg) : (s.earlyResult r).Inv := by
  cases hb : s.busy with
  | false => rwa [State.earlyResult_eq_self (.inl hb)]
  | true =>
    have hresult : LegalResult (if Config.freeEarly s.tick then s.commandEnd.result else s.result) := by
      split
      · exact h.commandEnd.result
      · exact h.result
    simp only [State.earlyResult, hb, if_true]
    cases r with
    | result => exact h.newResults hb hresult (h.descriptor.imp_right And.right)
    | desc => exact h.newResults hb h.result (h.oldOrNewDescriptor (ite_eq_or_eq ..) (.inr rfl))
    | descName => exact h.newResults hb h.result (h.oldOrNewDescriptor (.inr rfl) (ite_eq_or_eq ..))
    | cmd | status | width | height | rowStride | srcLen | dstLen => exact h

theorem State.Inv.hostReadReg {s t : State} {offset : Nat} (h : s.Inv) (ht : s.hostReadReg offset = .next t) : t.Inv := by
  unfold State.hostReadReg at ht
  split at ht <;> cases ht
  · exact h.outside _ _
  · exact (h.earlyResult _).outside _ _

theorem State.Inv.hostWriteSrc {s : State} (h : s.Inv) (i : Nat) (v : Sample) : (s.hostWriteSrc i v).Inv :=
  { h with
    srcWf := Samples.wf_write i v h.srcWf
    hazards := fun (hidle : s.busy = false) => by simp [hidle, h.hazards hidle] }

theorem State.Inv.hostWriteDst {s : State} (h : s.Inv) (a : Nat) (v : Byte) : (s.hostWriteDst a v).Inv :=
  { h with
    dstWf := Memory.wf_write a v h.dstWf
    hazards := fun (hidle : s.busy = false) => by simp [hidle, h.hazards hidle]
    lost := by simpa using h.lost }

theorem State.Inv.hostReadDst {s : State} (h : s.Inv) (a : Nat) : (s.hostReadDst a).Inv := by
  unfold State.hostReadDst
  split
  · exact { h with lost := fun r hr => Nat.lt_succ_of_lt (h.lost r hr) }
  · exact h.outside _ _

theorem State.Inv.hostPoll {s t : State} (h : s.Inv) (ht : s.hostPoll = .next t) : t.Inv := by
  unfold State.hostPoll at ht
  split at ht
  · exact (h.outside (.host .pollDone :: s.pending) s.readData).runCommand ht
  · split at ht <;> cases ht <;> exact h.outside _ _

theorem State.Inv.hostAct {s t : State} {a : HostAction} (h : s.Inv) (ht : s.hostAct a = .next t) : t.Inv := by
  cases a with
  | writeReg offset value => exact h.hostWriteReg ht
  | readReg offset => exact h.hostReadReg ht
  | writeSrc i v => cases ht; exact h.hostWriteSrc i v
  | readSrc i => cases ht; exact h.outside _ _
  | writeDst a v => cases ht; exact h.hostWriteDst a v
  | readDst a => cases ht; exact h.hostReadDst a
  | pollDone => exact h.hostPoll ht
  | writeBack offset factor => exact h.hostWriteReg ht
  | skipOnError count => cases ht; exact h.outside _ _

theorem State.Inv.converterTurn {s t : State} (h : s.Inv) (ht : s.converterTurn = .next t) : t.Inv := by
  cases hb : s.busy with
  | true => exact h.runCommand ((State.converterTurn_of_busy hb).symm.trans ht)
  | false => cases (State.converterTurn_of_idle hb).symm.trans ht; exact h

/-- The reset input makes every register 0 and numbers the bytes it makes unspecified below the new `tick` (R36, R242). -/
theorem State.Inv.applyReset {s : State} (h : s.Inv) : s.applyReset.Inv := by
  obtain ⟨-, hdone, -, -⟩ := State.flags_of_status_zero s.applyReset_status
  have hdst : s.applyReset.dst.wf = true ∧ ∀ r ∈ s.applyReset.dst.lost, r.id < s.tick + 1 := by
    rw [State.applyReset_dst]
    split
    · exact ⟨State.wf_dstAfterFailure .pack h.dstWf, h.lost_dstAfterFailure .pack⟩
    · exact ⟨h.dstWf, h.lost_dstAfterFailure .other⟩
  exact {
    dstWf := hdst.1
    srcWf := h.srcWf
    status := List.mem_cons_self
    fresh := fun _ => ⟨rfl, rfl, rfl, rfl⟩
    code := by simp [hdone]
    result := .inl rfl
    descriptor := .inl (.inl ⟨rfl, rfl⟩)
    hazards := fun _ => rfl
    lost := hdst.2 }

theorem State.Inv.takeEvent {s t : State} {e : Event} (h : s.Inv) (ht : s.takeEvent e = .next t) : t.Inv := by
  cases e with
  | host a => exact h.hostAct ht
  | converter => exact h.converterTurn ht
  | reset => cases ht; exact h.applyReset

/-- Settles O54, by cases on the event the step takes. -/
theorem everyStepKeepsTheInvariant : Obligations.EveryStepKeepsTheInvariant := by
  intro s t h ht
  cases hp : s.pending with
  | nil => exact h.converterTurn ((step_of_pending_nil hp).symm.trans ht)
  | cons e rest => exact (h.outside rest s.readData).takeEvent ((step_of_pending_cons hp).symm.trans ht)

/-! ## A step that takes the reset input (10_state.md R36) -/

/-- Settles O17: `State.applyReset`, register by register; only a running PACK loses DST, below DST_LEN. -/
theorem resetInputClearsTheRegisters : Obligations.ResetInputClearsTheRegisters := by
  intro s rest hp
  refine ⟨_, step_of_pending_cons hp, State.reset_registersZero, rfl, rfl, rfl, rfl, fun hn => ?_, fun a ha => ?_⟩
  · simpa using fun hb hc => absurd ⟨hb, hc⟩ hn
  · rw [State.applyReset_dst]
    split
    · exact State.read_dstAfterFailure .pack ha
    · rfl

end Sys2Proof.Machine

/-! What commands do to DST and what the host does to the buffers (20_memory.md): which commands write DST and where, that the
order of rows and groups leaves no trace, and that SRC and DST are the host's while no command runs. -/

namespace Sys2Proof.Machine

/-! ## Which command changes DST, and where (20_memory.md R52, R55) -/

/-- A successful PACK leaves DST as it was outside its write set (20_memory.md R54), whatever the host wrote meanwhile. -/
theorem State.read_packed_of_not_inWriteSet {s : State} {tag : Tag} {pg : Slots → List Byte}
    (hready : s.PackReady (descRead tag).groupPixels (descRead tag).groupBytes) {a : Nat}
    (ha : s.inWriteSet (descRead tag) a = false) : (s.packed (descRead tag) pg).dst.read a = s.dst.read a := by
  rw [State.read_packed (groupBytes_pos tag) (groupPixels_pos tag) hready, if_neg (by simp [ha])]

/-- A command that changes a byte of DST is a PACK, successful or not, and the byte lies below DST_LEN. -/
theorem exec_dst_changes {i : Instr} {s t : State} (h : exec i s = .next t) {a : Nat}
    (hne : t.dst.read a ≠ s.dst.read a) : isPackInstr i = true ∧ a < s.opDstLen := by
  rcases exec_cases i s with ⟨e, he, -⟩ | ⟨tag, n, -, -, -, he⟩ | ⟨tag, n, -, -, -, -, he⟩ | ⟨tag, pg, hp, -, hready, he⟩
  · cases he.symm.trans h
    refine ⟨?_, Nat.lt_of_not_le fun ha => hne (State.read_dstAfterFailure _ ha)⟩
    by_contra hi
    simp [hi] at hne
  · cases he.symm.trans h
    exact absurd rfl hne
  · cases he.symm.trans h
    exact absurd rfl hne
  · cases he.symm.trans h
    have hin : s.inWriteSet (descRead tag) a = true := by
      by_contra hin
      exact hne (State.read_packed_of_not_inWriteSet hready (by simpa using hin))
    exact ⟨(implementedPacks_isPack_mayReport_ok _ hp).1, State.lt_opDstLen_of_inWriteSet hready hin⟩

/-- The running command's word, in the opcode table or not, changes bytes of DST below DST_LEN only. -/
theorem State.runCommand_dst_changes {s t : State} (h : s.runCommand = .next t) {a : Nat}
    (hne : t.dst.read a ≠ s.dst.read a) : a < s.opDstLen := by
  cases hd : decode s.cmd with
  | instr i => exact (exec_dst_changes ((State.runCommand_of_instr hd).symm.trans h) hne).2
  | reject r =>
    cases (State.runCommand_of_reject hd).symm.trans h
    exact Nat.lt_of_not_le fun ha => hne (State.read_dstAfterFailure _ ha)

/-- Settles O21: a byte that changes lies below DST_LEN. -/
theorem noCommandWritesDstAtOrAboveDstLen : Obligations.NoCommandWritesDstAtOrAboveDstLen := by
  intro s t a ha hrun
  by_contra hne
  have hlt : a < s.opDstLen := by
    rcases hrun with ⟨i, h⟩ | h
    · exact (exec_dst_changes h hne).2
    · exact State.runCommand_dst_changes h hne
  exact absurd ha (Nat.not_le.2 hlt)

/-- Settles O23: a command that changes a byte of DST is a PACK. -/
theorem onlyPackChangesDst : Obligations.OnlyPackChangesDst := by
  intro i s t hi h a
  by_contra hne
  exact absurd (exec_dst_changes h hne).1 (by simp [hi])

/-! ## A PACK whose checks pass (20_memory.md R54, 45_format_dispatcher.md R189) -/

/-- An implemented PACK whose checks pass completes OK, with the bytes of its tag's group function. -/
theorem exec_of_packReady {p : Instr × Tag} (hp : p ∈ implementedPacks) {s : State}
    (hready : s.PackReady (descRead p.2).groupPixels (descRead p.2).groupBytes) :
    ∃ pg, groupFunction s.params p.2 = some pg ∧ exec p.1 s = .next (s.packed (descRead p.2) pg).completeOk := by
  obtain ⟨pg, hpg, himpl, hex⟩ := exec_of_implemented hp s
  have hcheck := State.packCheck_eq_none.2 ⟨himpl, hready⟩
  rcases s.pack_cases (descRead p.2) pg with ⟨e, herr, -⟩ | ⟨-, hpack⟩
  · cases hcheck.symm.trans herr
  · exact ⟨pg, hpg, hex.trans hpack⟩

/-- Settles O42: the completion is OK, and outside the write set no byte is written or lost. -/
theorem packCompletesWhateverTheHostDoes : Obligations.PackCompletesWhateverTheHostDoes := by
  intro p hp s hready
  obtain ⟨pg, -, hex⟩ := exec_of_packReady hp hready
  refine ⟨_, hex, statusOk_eq, ?_, ?_, ?_, fun a ha => ?_⟩
  · simp [State.OperandsKept, State.packed]
  · simp [State.ResultsKept, State.packed]
  · simp [State.OutsideKept, State.packed]
  · exact State.read_packed_of_not_inWriteSet hready (State.not_inWriteSet_of_outside ha)

/-! ## The order of rows and groups (20_memory.md R58, 60_exceptions.md R232) -/

/-- The groups of a row fit in the row stride when the checks pass (45_format_dispatcher.md R182). -/
theorem State.PackReady.rowGroups_fit {s : State} {d : Descriptor} (h : s.PackReady d.groupPixels d.groupBytes) :
    s.rowGroups d * d.groupBytes ≤ s.opRowStride := by
  obtain ⟨-, -, hfit, -, -, -⟩ := h
  exact hfit

/-- Groups of a row in another order leave the same bytes. -/
theorem State.read_packRow_perm {s : State} {d : Descriptor} (pg : Slots → List Byte) (hgb : 0 < d.groupBytes)
    {gs gs' : List Nat} (hperm : gs.Perm gs') (y : Nat) (m : Memory) (a : Nat) :
    (s.packRow d pg gs y m).read a = (s.packRow d pg gs' y m).read a := by
  simp only [State.read_packRow hgb, hperm.mem_iff]

/-- Rows in another order leave the same bytes, when the groups of a row fit in it. -/
theorem State.read_packRows_perm {s : State} {d : Descriptor} (pg : Slots → List Byte) (hgb : 0 < d.groupBytes)
    (hfit : s.rowGroups d * d.groupBytes ≤ s.opRowStride) {ys ys' : List Nat} (hperm : ys.Perm ys') (m : Memory)
    (a : Nat) : (s.packRows d pg ys m).read a = (s.packRows d pg ys' m).read a := by
  simp only [State.read_packRows hgb hfit, hperm.mem_iff]

/-- The groups of a frame in any order leave the bytes that the rows one after another leave. -/
theorem State.read_packPairs_perm_frameGroups {s : State} {d : Descriptor} (pg : Slots → List Byte)
    (hgb : 0 < d.groupBytes) (hfit : s.rowGroups d * d.groupBytes ≤ s.opRowStride) {yg : List (Nat × Nat)}
    (hperm : yg.Perm (s.frameGroups d)) (m : Memory) (a : Nat) :
    (s.packPairs d pg yg m).read a = (s.packRows d pg (List.range s.opHeight.toNat) m).read a := by
  have hrows : s.packRows d pg (List.range s.opHeight.toNat) m = s.packPairs d pg (s.frameGroups d) m :=
    s.packRows_eq_packPairs d pg _ m
  have hlt : ∀ p ∈ s.frameGroups d, p.2 < s.rowGroups d := fun p hp => (State.mem_frameGroups.1 hp).2
  rw [hrows, State.read_packPairs hgb hfit yg fun p hp => hlt p (hperm.mem_iff.1 hp),
    State.read_packPairs hgb hfit _ hlt]
  simp only [hperm.mem_iff]

/-- With no hazard, a PACK whose checks pass leaves in DST what its rows one after another leave. -/
theorem exec_dst_of_packReady {i : Instr} {tag : Tag} {pg : Slots → List Byte} {s t : State}
    (hp : (i, tag) ∈ implementedPacks) (hpg : groupFunction s.params tag = some pg)
    (hready : s.PackReady (descRead tag).groupPixels (descRead tag).groupBytes) (hs : s.hazards = .none)
    (h : exec i s = .next t) : t.dst = s.packRows (descRead tag) pg (List.range s.opHeight.toNat) s.dst := by
  obtain ⟨pg', hpg', hex⟩ := exec_of_packReady hp hready
  cases hpg.symm.trans hpg'
  cases hex.symm.trans h
  exact State.loseTouched_of_untouched (by rw [hs]; rfl) _ _

/-- Settles O45: a byte depends on which rows and groups are listed, and a permutation lists the same. -/
theorem orderOfRowsAndGroupsIsUnobservable : Obligations.OrderOfRowsAndGroupsIsUnobservable := by
  intro s tag pg m d hready
  have hgb : 0 < d.groupBytes := groupBytes_pos tag
  have hfit : s.rowGroups d * d.groupBytes ≤ s.opRowStride := hready.rowGroups_fit
  refine ⟨fun yg hperm => ⟨State.read_packPairs_perm_frameGroups pg hgb hfit hperm m, fun i t hp hpg hs h a => ?_⟩,
    fun ys hperm => State.read_packRows_perm pg hgb hfit hperm m,
    fun y gs gs' hperm => State.read_packRow_perm pg hgb hperm y m⟩
  rw [exec_dst_of_packReady hp hpg hready hs h]
  exact (State.read_packPairs_perm_frameGroups pg hgb hfit hperm s.dst a).symm

/-! ## The host's accesses to the buffers while idle (20_memory.md R50, R52, R60) -/

theorem State.hostWriteSrc_of_idle {s : State} (hidle : s.busy = false) (i : Nat) (v : Sample) :
    s.hostWriteSrc i v = { s with src := s.src.write i v } := by
  simp [State.hostWriteSrc, hidle]

theorem State.hostWriteDst_of_idle {s : State} (hidle : s.busy = false) (a : Nat) (v : Byte) :
    s.hostWriteDst a v = { s with dst := s.dst.write a v } := by
  simp [State.hostWriteDst, hidle]

theorem State.hostReadDst_of_idle {s : State} (hidle : s.busy = false) (a : Nat) :
    s.hostReadDst a = { s with readData := (s.dst.read a).setWidth 128 } := by
  simp [State.hostReadDst, hidle]

/-- Settles O51: each access by the equation of its step, each write by what a read gives after it. -/
theorem buffersAreTheHostsWhileIdle : Obligations.BuffersAreTheHostsWhileIdle := by
  intro s i rest
  refine ⟨fun hp => step_of_pending_cons hp, fun hidle => ⟨fun hp => ?_, fun v hp => ?_, fun v hp => ?_⟩⟩
  · exact (step_of_pending_cons hp).trans
      (congrArg _ (State.hostReadDst_of_idle (s := { s with pending := rest }) hidle i))
  · refine ⟨_, step_of_pending_cons hp, ?_, fun j => ?_⟩
    · exact State.hostWriteSrc_of_idle (s := { s with pending := rest }) hidle i v
    · exact (Samples.read_write s.src i j v).trans (if_congr eq_comm rfl rfl)
  · refine ⟨_, step_of_pending_cons hp, ?_, fun a => ?_⟩
    · exact State.hostWriteDst_of_idle (s := { s with pending := rest }) hidle i v
    · exact (Memory.read_write s.dst i a v).trans (if_congr eq_comm rfl rfl)

end Sys2Proof.Machine

/-! The command words (30_encoding.md): decoding by ranges of numbers, decode and encode as inverses, the opcode table, and how the
converter's turn, a fetched word, a write to CMD and a poll run the word in CMD. -/

namespace Sys2Proof

/-! ## Decode by the range a word lies in (30_encoding.md R85, R87) -/

theorem decode_describe {c : Word} (h : c.toNat < 0x100) : decode c = .instr (.describe c.toNat) := by
  rw [decode_eq, if_neg (by omega), if_neg (by omega), if_pos h]

theorem decode_stride {c : Word} (hlo : 0x100 ≤ c.toNat) (hhi : c.toNat < 0x200) :
    decode c = .instr (.stride (c.toNat - 0x100)) := by
  rw [decode_eq, if_neg (by omega), if_neg (by omega), if_neg (by omega), if_pos hhi]

theorem decode_pack {c : Word} (hlo : 0x200 ≤ c.toNat) (hhi : c.toNat < 0x300) :
    decode c = decodePack (c.toNat - 0x200) := by
  rw [decode_eq, if_neg (by omega), if_neg (by omega), if_neg (by omega), if_neg (by omega)]

theorem decode_reservedOperation {c : Word} (hlo : 0x300 ≤ c.toNat) (hhi : c.toNat < 0x400) :
    decode c = .reject .reservedOperation := by
  rw [decode_eq, if_neg (by omega), if_pos hlo]

theorem decode_reservedBits {c : Word} (h : 0x400 ≤ c.toNat) : decode c = .reject .reservedBits := by
  rw [decode_eq, if_pos h]

/-- The registered tags have a PACK row each (30_encoding.md R82, R86). -/
theorem decodePack_of_le {t : Nat} (h : t ≤ 10) : ∃ i, decodePack t = .instr i := by
  interval_cases t <;> exact ⟨_, rfl⟩

/-- The word of a PACK row is the row's tag code under OP = 2 (30_encoding.md R81). -/
theorem encode_toNat_of_decodePack {t : Nat} {i : Instr} (h : decodePack t = .instr i) :
    i.wellFormed = true ∧ (encode i).toNat = 0x200 + t := by
  unfold decodePack at h
  split at h <;> cases h <;> exact ⟨rfl, rfl⟩

/-- Everything a word that decodes to a command can be. -/
theorem decode_eq_instr_cases {c : Word} {i : Instr} (h : decode c = .instr i) :
    (c.toNat < 0x100 ∧ i = .describe c.toNat)
      ∨ (0x100 ≤ c.toNat ∧ c.toNat < 0x200 ∧ i = .stride (c.toNat - 0x100))
      ∨ (0x200 ≤ c.toNat ∧ decodePack (c.toNat - 0x200) = .instr i) := by
  rw [decode_eq] at h
  split_ifs at h with hzero hop hdescribe hstride
  · cases h; exact .inl ⟨hdescribe, rfl⟩
  · cases h; exact .inr (.inl ⟨by omega, hstride, rfl⟩)
  · exact .inr (.inr ⟨by omega, h⟩)

/-- Settles O4, range by range. -/
theorem wordsOutsideTheTableFallInThreeClasses : Obligations.WordsOutsideTheTableFallInThreeClasses := by
  refine fun c => ⟨decode_reservedBits, decode_reservedOperation, fun hlo hhi => ?_, fun h => ?_⟩
  · rw [decode_pack (by omega) hhi, decodePack_of_lt (by omega)]
  · by_cases hdescribe : c.toNat < 0x100
    · exact ⟨_, decode_describe hdescribe⟩
    · by_cases hstride : c.toNat < 0x200
      · exact ⟨_, decode_stride (by omega) hstride⟩
      · rw [decode_pack (by omega) (by omega)]
        exact decodePack_of_le (by omega)

/-! ## Decode and encode are inverse to each other (30_encoding.md R80, R89) -/

@[simp] theorem wellFormed_describe_iff {tag : Nat} : (Instr.describe tag).wellFormed = true ↔ tag < 256 :=
  decide_eq_true_iff

@[simp] theorem wellFormed_stride_iff {tag : Nat} : (Instr.stride tag).wellFormed = true ↔ tag < 256 :=
  decide_eq_true_iff

theorem commandWord_describe_toNat (tag : BitVec 8) : (commandWord 0 tag).toNat = tag.toNat := by
  simp [commandWord_toNat]

theorem commandWord_stride_toNat (tag : BitVec 8) : (commandWord 1 tag).toNat = 0x100 + tag.toNat := by
  simp [commandWord_toNat]

theorem commandWord_pack_toNat (tag : BitVec 8) : (commandWord 2 tag).toNat = 0x200 + tag.toNat := by
  simp [commandWord_toNat]

theorem decode_commandWord_describe (tag : BitVec 8) : decode (commandWord 0 tag) = .instr (.describe tag.toNat) := by
  have hword := commandWord_describe_toNat tag
  rw [decode_describe (by omega), hword]

theorem decode_commandWord_stride (tag : BitVec 8) : decode (commandWord 1 tag) = .instr (.stride tag.toNat) := by
  have hword := commandWord_stride_toNat tag
  rw [decode_stride (by omega) (by omega), hword, Nat.add_sub_cancel_left]

theorem decode_commandWord_pack (tag : BitVec 8) : decode (commandWord 2 tag) = decodePack tag.toNat := by
  have hword := commandWord_pack_toNat tag
  rw [decode_pack (by omega) (by omega), hword, Nat.add_sub_cancel_left]

theorem decode_encode {i : Instr} (h : i.wellFormed = true) : decode (encode i) = .instr i := by
  cases i with
  | describe tag =>
    rw [encode, decode_commandWord_describe, BitVec.toNat_ofNat, Nat.mod_eq_of_lt (wellFormed_describe_iff.1 h)]
  | stride tag =>
    rw [encode, decode_commandWord_stride, BitVec.toNat_ofNat, Nat.mod_eq_of_lt (wellFormed_stride_iff.1 h)]
  | packRgb8 | packArgb8 | packBgra8 | packRgb10 | packRgb12Be | packRgb12Le | packYuv8_422 | packYuv10_422
  | packRgb10xBe | packRgb10xLe | packYuva10_422 => exact decode_commandWord_pack _

/-- Settles O1, by cases on the command. -/
theorem decodeOfEncodeGivesTheCommand : Obligations.DecodeOfEncodeGivesTheCommand :=
  fun _ h => decode_encode h

/-- Settles O2: in each case of `decode_eq_instr_cases` the word and the encoding are the same number. -/
theorem decodedWordIsTheWordOfItsCommand : Obligations.DecodedWordIsTheWordOfItsCommand := by
  intro c i h
  rcases decode_eq_instr_cases h with ⟨hhi, rfl⟩ | ⟨hlo, hhi, rfl⟩ | ⟨hlo, hpack⟩
  · refine ⟨wellFormed_describe_iff.2 hhi, BitVec.eq_of_toNat_eq ?_⟩
    rw [encode, commandWord_describe_toNat, BitVec.toNat_ofNat, Nat.mod_eq_of_lt hhi]
  · have htag : c.toNat - 0x100 < 256 := by omega
    refine ⟨wellFormed_stride_iff.2 htag, BitVec.eq_of_toNat_eq ?_⟩
    rw [encode, commandWord_stride_toNat, BitVec.toNat_ofNat, Nat.mod_eq_of_lt htag, Nat.add_sub_cancel' hlo]
  · obtain ⟨hwf, hword⟩ := encode_toNat_of_decodePack hpack
    exact ⟨hwf, BitVec.eq_of_toNat_eq (hword.trans (Nat.add_sub_cancel' hlo))⟩

/-- Settles O5: each word is its command's encoding, or lies in the range of the reserved operation. -/
theorem wordsWrittenOutFromTheTableDecode : Obligations.WordsWrittenOutFromTheTableDecode :=
  ⟨decode_encode (i := .describe 2) rfl, decode_encode (i := .stride 7) rfl, decode_encode (i := .packRgb8) rfl,
    decode_encode (i := .packYuv10_422) rfl, decode_encode (i := .packYuva10_422) rfl,
    decode_reservedOperation (by decide) (by decide)⟩

/-! ## The opcode table (30_encoding.md R86) -/

/-- The rows of the table are the rows of the commands. -/
theorem mem_opcodeTable {r : OpcodeRow} : r ∈ opcodeTable ↔ ∃ i, opcodeRow i = r := by
  constructor
  · intro h
    obtain ⟨i, -, hi⟩ := List.mem_map.1 h
    exact ⟨i, hi⟩
  · rintro ⟨i, rfl⟩
    cases i with
    | describe tag => exact List.mem_map_of_mem (a := Instr.describe 0) (by decide)
    | stride tag => exact List.mem_map_of_mem (a := Instr.stride 0) (by decide)
    | packRgb8 | packArgb8 | packBgra8 | packRgb10 | packRgb12Be | packRgb12Le | packYuv8_422 | packYuv10_422
    | packRgb10xBe | packRgb10xLe | packYuva10_422 => exact List.mem_map_of_mem (by decide)

/-- The word of a well-formed command lies in its own row. -/
theorem opcodeRow_selects_encode {i : Instr} (h : i.wellFormed = true) : (opcodeRow i).selects (encode i) = true := by
  cases i with
  | describe tag => exact Laws.TableRow.describe tag h
  | stride tag => exact Laws.TableRow.stride tag h
  | packRgb8 | packArgb8 | packBgra8 | packRgb10 | packRgb12Be | packRgb12Le | packYuv8_422 | packYuv10_422
  | packRgb10xBe | packRgb10xLe | packYuva10_422 => rfl

/-- The row of a DESCRIBE does not depend on its tag. -/
theorem opcodeRow_describe (t u : Nat) : opcodeRow (.describe t) = opcodeRow (.describe u) := rfl

/-- The row of a STRIDE does not depend on its tag. -/
theorem opcodeRow_stride (t u : Nat) : opcodeRow (.stride t) = opcodeRow (.stride u) := rfl

/-- The mask of DESCRIBE and STRIDE clears TAG. -/
theorem toNat_of_tagMask_selects {c p : Word} (h : OpcodeRow.selects ⟨p, 0xFFFFFF00⟩ c = true) :
    c.toNat / 256 * 256 = p.toNat := by
  have hmask : c &&& (BitVec.allOnes 32 <<< 8) = c >>> 8 <<< 8 := BitVec.shiftLeft_ushiftRight.symm
  have hlt := c.isLt
  have hsel : c &&& (BitVec.allOnes 32 <<< 8) = p := eq_of_beq h
  rw [← hsel, hmask, BitVec.toNat_shiftLeft, BitVec.toNat_ushiftRight, Nat.shiftRight_eq_div_pow,
    Nat.shiftLeft_eq, Nat.mod_eq_of_lt (by omega)]

/-- The row of a PACK has the full mask and the command's one word. -/
theorem opcodeRow_of_pack {j : Instr} (hj : Machine.isPackInstr j = true) :
    j.wellFormed = true ∧ opcodeRow j = ⟨encode j, BitVec.allOnes 32⟩ := by
  cases j with
  | describe tag | stride tag => cases hj
  | packRgb8 | packArgb8 | packBgra8 | packRgb10 | packRgb12Be | packRgb12Le | packYuv8_422 | packYuv10_422
  | packRgb10xBe | packRgb10xLe | packYuva10_422 => exact ⟨rfl, rfl⟩

theorem decode_of_packRow_selects {c : Word} {j : Instr} (hj : Machine.isPackInstr j = true)
    (h : (opcodeRow j).selects c = true) : decode c = .instr j := by
  obtain ⟨hwf, hrow⟩ := opcodeRow_of_pack hj
  have hsel : c &&& BitVec.allOnes 32 = encode j := by rw [hrow] at h; exact eq_of_beq h
  rw [← BitVec.and_allOnes (x := c), hsel, decode_encode hwf]

/-- A word that a command's row selects decodes to a command of that row. -/
theorem decode_of_opcodeRow_selects {c : Word} {j : Instr} (h : (opcodeRow j).selects c = true) :
    ∃ i, decode c = .instr i ∧ opcodeRow i = opcodeRow j := by
  cases j with
  | describe tag =>
    have hword : c.toNat / 256 * 256 = 0 := toNat_of_tagMask_selects h
    exact ⟨_, decode_describe (by omega), opcodeRow_describe _ _⟩
  | stride tag =>
    have hword : c.toNat / 256 * 256 = 0x100 := toNat_of_tagMask_selects h
    exact ⟨_, decode_stride (by omega) (by omega), opcodeRow_stride _ _⟩
  | packRgb8 | packArgb8 | packBgra8 | packRgb10 | packRgb12Be | packRgb12Le | packYuv8_422 | packYuv10_422
  | packRgb10xBe | packRgb10xLe | packYuva10_422 => exact ⟨_, decode_of_packRow_selects rfl h, rfl⟩

/-- The row of a command selects just the words that decode to a command of that row. -/
theorem opcodeRow_selects_iff {c : Word} {j : Instr} :
    (opcodeRow j).selects c = true ↔ ∃ i, decode c = .instr i ∧ opcodeRow i = opcodeRow j := by
  refine ⟨decode_of_opcodeRow_selects, ?_⟩
  rintro ⟨i, hd, hrow⟩
  obtain ⟨hwf, rfl⟩ := decodedWordIsTheWordOfItsCommand c i hd
  rw [← hrow]
  exact opcodeRow_selects_encode hwf

/-- Settles O3: every row of the table is a command's, and `opcodeRow_selects_iff` says which words it selects. -/
theorem decodeAgreesWithTheOpcodeTable : Obligations.DecodeAgreesWithTheOpcodeTable := by
  refine fun c => ⟨⟨?_, ?_⟩, fun i hd r hr => ?_⟩
  · rintro ⟨i, hd⟩
    exact ⟨_, mem_opcodeTable.2 ⟨i, rfl⟩, opcodeRow_selects_iff.2 ⟨i, hd, rfl⟩⟩
  · rintro ⟨r, hr, hsel⟩
    obtain ⟨j, rfl⟩ := mem_opcodeTable.1 hr
    obtain ⟨i, hd, -⟩ := opcodeRow_selects_iff.1 hsel
    exact ⟨i, hd⟩
  · obtain ⟨j, rfl⟩ := mem_opcodeTable.1 hr
    rw [opcodeRow_selects_iff, hd]
    exact ⟨fun ⟨i', hi, hrow⟩ => by cases hi; exact hrow.symm, fun hrow => ⟨i, rfl, hrow.symm⟩⟩

end Sys2Proof

namespace Sys2Proof.Machine

/-! ## Running the word in CMD (30_encoding.md R84, R85) -/

/-- The converter's turn on a running command of the table executes it. -/
theorem State.converterTurn_of_instr {s : State} {i : Instr} (hbusy : s.busy = true) (hd : decode s.cmd = .instr i) :
    s.converterTurn = exec i s :=
  (State.converterTurn_of_busy hbusy).trans (State.runCommand_of_instr hd)

/-- Settles O6: either step is the converter's turn. -/
theorem converterTurnExecutesTheDecodedCommand : Obligations.ConverterTurnExecutesTheDecodedCommand := by
  intro s i hbusy hd
  exact ⟨fun hp => (step_of_pending_nil hp).trans (State.converterTurn_of_instr hbusy hd), fun rest hp =>
    (step_of_pending_cons hp).trans (State.converterTurn_of_instr (s := { s with pending := rest }) hbusy hd)⟩

/-- The step after a launch of a command's word executes the command on the started state. -/
theorem step_launch {s : State} {c : Word} {i : Instr} (hd : decode c = .instr i) :
    step (s.launch c) = exec i (s.start c) :=
  (step_of_pending_cons (s.launch_pending c)).trans (State.converterTurn_of_instr (s.busy_start c) hd)

/-- Settles O7: `withFetchWord` launches the word. -/
theorem fetchedWordIsExecutedNext : Obligations.FetchedWordIsExecutedNext := by
  intro s w i hd hw
  rw [State.withFetchWord, Nat.mod_eq_of_lt hw]
  exact step_launch hd

/-- A write to CMD while idle, with the converter's turn after it, launches the word. -/
theorem step_writeCmd_of_idle {s : State} {c : Word} {rest : List Event} (hidle : s.busy = false)
    (hp : s.pending = .host (.writeReg 0x00 (c.setWidth 128)) :: .converter :: rest) :
    step s = .next (({ s with pending := rest }).launch c) := by
  rw [step_writeReg_of_idle .cmd hidle hp, State.storeReg, BitVec.setWidth_setWidth_of_le _ (by decide),
    BitVec.setWidth_eq]
  rfl

/-- Settles O9: the write launches the word, and the step after it executes the command. -/
theorem writeToCmdThenConverterTurnExecutesTheCommand : Obligations.WriteToCmdThenConverterTurnExecutesTheCommand :=
  fun _ _ _ hidle hwf hp => ⟨_, step_writeCmd_of_idle hidle hp, step_launch (decode_encode hwf)⟩

/-! ## Polling (30_encoding.md R90, 70_reset_and_hazards.md R243) -/

/-- Putting the events back that are there changes nothing. -/
theorem State.pending_eq_self {s : State} {l : List Event} (hp : s.pending = l) : { s with pending := l } = s := by
  subst hp; rfl

theorem State.hostPoll_of_busy {s : State} (hbusy : s.busy = true) :
    s.hostPoll = State.runCommand { s with pending := .host .pollDone :: s.pending } := by
  simp [State.hostPoll, hbusy]

theorem State.hostPoll_of_done {s : State} (hidle : s.busy = false) (hdone : s.done = true) :
    s.hostPoll = .next { s with readData := s.status.setWidth 128 } := by
  simp [State.hostPoll, hidle, hdone, State.regValue]

theorem State.hostPoll_of_not_done {s : State} (hidle : s.busy = false) (hdone : s.done = false) :
    s.hostPoll = .next { s with pending := .host .pollDone :: s.pending, readData := s.status.setWidth 128 } := by
  simp [State.hostPoll, hidle, hdone, State.regValue]

/-- Settles O15: one branch of `State.hostPoll` per clause; a poll that stays is put back where it was. -/
theorem pollReadsStatusOnceDone : Obligations.PollReadsStatusOnceDone := by
  intro s rest hp
  have hstep : step s = State.hostPoll { s with pending := rest } := step_of_pending_cons hp
  have hback : { s with pending := .host .pollDone :: rest } = s := State.pending_eq_self hp
  refine ⟨fun hbusy => ?_, fun hidle hdone => ?_, fun hidle hdone => ?_⟩
  · rw [hstep, State.hostPoll_of_busy (s := { s with pending := rest }) hbusy, hback]
  · rw [hstep, State.hostPoll_of_done (s := { s with pending := rest }) hidle hdone]
  · rw [hstep, State.hostPoll_of_not_done (s := { s with pending := rest }) hidle hdone, ← hp]

/-! ## What an error completion leaves (30_encoding.md R87, R88, 60_exceptions.md R216) -/

theorem State.raise_otherFailedFrom (s : State) (e : ErrorCode) :
    (s.raise .other e).OtherFailedFrom s (statusError e) :=
  ⟨rfl, (s.raise_keeps _ e).1, ⟨rfl, rfl, rfl⟩, (s.raise_keeps _ e).2, rfl⟩

theorem State.raise_packFailedFrom (s : State) (e : ErrorCode) :
    (s.raise .pack e).PackFailedFrom s (statusError e) :=
  ⟨rfl, (s.raise_keeps _ e).1, ⟨rfl, rfl, rfl⟩, (s.raise_keeps _ e).2, fun _ => State.read_dstAfterFailure .pack⟩

/-- A word from 0x300 on completes with IllegalCommand, for its reserved bits or its reserved operation (R87). -/
theorem State.runCommand_of_illegal {s : State} (h : 0x300 ≤ s.cmd.toNat) :
    s.runCommand = .next (s.raise .other .illegalCommand) := by
  by_cases hzero : 0x400 ≤ s.cmd.toNat
  · exact State.runCommand_of_reject (r := .reservedBits) (decode_reservedBits hzero)
  · exact State.runCommand_of_reject (r := .reservedOperation) (decode_reservedOperation h (Nat.lt_of_not_le hzero))

/-- Settles O19: the completion of a word from 0x300 on is that of a command that is no PACK. -/
theorem illegalWordChangesOnlyStatus : Obligations.IllegalWordChangesOnlyStatus := by
  intro s hbusy hp hword
  refine ⟨s.raise .other .illegalCommand, ?_, ?_⟩
  · rw [step_of_pending_nil hp, State.converterTurn_of_busy hbusy, State.runCommand_of_illegal hword]
  · exact statusError_illegalCommand ▸ s.raise_otherFailedFrom .illegalCommand

/-- The `not d.impl` line of 45_format_dispatcher.md R180, for the tags without a layout (R88). -/
theorem exec_of_unimplemented {i : Instr} (h : i ∈ [Instr.packRgb10xBe, .packRgb10xLe, .packYuva10_422]) (s : State) :
    exec i s = .next (s.raise .pack .unsupportedFormat) := by
  simp only [List.mem_cons, List.not_mem_nil, or_false] at h
  rcases h with rfl | rfl | rfl <;> rfl

/-- Settles O44: the three commands fail as a PACK does. -/
theorem packOfUnimplementedTagIsUnsupported : Obligations.PackOfUnimplementedTagIsUnsupported :=
  fun _ hi s => ⟨_, exec_of_unimplemented hi s, statusError_unsupportedFormat ▸ s.raise_packFailedFrom .unsupportedFormat⟩

end Sys2Proof.Machine

/-! DESCRIBE (40_descriptor_table.md): the words and names of the table of R112, and the two completions of the command. -/

namespace Sys2Proof.Machine

/-! ## The encoded descriptors (40_descriptor_table.md R101, R103, R112) -/

/-- The word of YUVA10_422 is the sum of its stated fields and its OPEN group (R109, R112). -/
theorem encodeDesc_yuva10_422 :
    encodeDesc (descRead .yuva10_422)
      = BitVec.ofNat 32 (0x000043CA + yuva10GroupPixels * 2 ^ 16 + yuva10GroupBytes * 2 ^ 24) := by
  have hsum := encodeDesc_toNat (descRead_fits .yuva10_422)
  have hstated : (descRead .yuva10_422).depth + (descRead .yuva10_422).ncomp * 2 ^ 4
      + (descRead .yuva10_422).subsamp.code * 2 ^ 7 + (descRead .yuva10_422).endian.code * 2 ^ 8
      + (descRead .yuva10_422).impl.toNat * 2 ^ 10 + (descRead .yuva10_422).order.code * 2 ^ 12 = 0x000043CA := rfl
  have hgp : (descRead .yuva10_422).groupPixels = yuva10GroupPixels := rfl
  have hgb : (descRead .yuva10_422).groupBytes = yuva10GroupBytes := rfl
  rw [hstated, hgp, hgb] at hsum
  rw [← hsum, BitVec.ofNat_toNat, BitVec.setWidth_eq]

/-- Every row of R112 holds the word and the name of the registered tag with the row's code. -/
theorem tag_of_mem_encodedDescriptors {e : Nat × Word × BitVec 128} (h : e ∈ encodedDescriptors) :
    ∃ tag, tagOfCode e.1 = some tag ∧ encodeDesc (descRead tag) = e.2.1 ∧ encodeName (descRead tag) = e.2.2 := by
  simp only [encodedDescriptors, List.mem_cons, List.not_mem_nil, or_false] at h
  rcases h with rfl | rfl | rfl | rfl | rfl | rfl | rfl | rfl | rfl | rfl | rfl
  exacts [⟨.rgb8, rfl, rfl, rfl⟩, ⟨.argb8, rfl, rfl, rfl⟩, ⟨.bgra8, rfl, rfl, rfl⟩, ⟨.rgb10, rfl, rfl, rfl⟩,
    ⟨.rgb12Be, rfl, rfl, rfl⟩, ⟨.rgb12Le, rfl, rfl, rfl⟩, ⟨.yuv8_422, rfl, rfl, rfl⟩, ⟨.yuv10_422, rfl, rfl, rfl⟩,
    ⟨.rgb10xBe, rfl, rfl, rfl⟩, ⟨.rgb10xLe, rfl, rfl, rfl⟩, ⟨.yuva10_422, rfl, encodeDesc_yuva10_422, rfl⟩]

/-! ## The two completions of DESCRIBE (40_descriptor_table.md R110) -/

theorem exec_describe_of_registered {n : Nat} {tag : Tag} (h : tagOfCode n = some tag) (s : State) :
    exec (.describe n) s = .next ({ s with
      desc := encodeDesc (descRead tag), descName := encodeName (descRead tag) }).completeOk := by
  simp [exec, execDescribe, h]

theorem exec_describe_of_unregistered {n : Nat} (h : 10 < n) (s : State) :
    exec (.describe n) s = .next (s.raise .other .unsupportedFormat) := by
  simp [exec, execDescribe, tagOfCode_eq_none.2 h]

/-- Settles O25: the row's tag is registered, and the completion writes only its word, its name and STATUS. -/
theorem describeWritesTheDescriptorAndTheName : Obligations.DescribeWritesTheDescriptorAndTheName := by
  intro s e he
  obtain ⟨tag, htag, hdesc, hname⟩ := tag_of_mem_encodedDescriptors he
  refine ⟨_, exec_describe_of_registered htag s, hdesc, hname, statusOk_eq, ?_, rfl, rfl, ?_⟩
  · simp [State.OperandsKept]
  · simp [State.OutsideKept]

/-- Settles O26: the completion is the error completion of a command that is no PACK. -/
theorem describeOfUnregisteredTagIsUnsupported : Obligations.DescribeOfUnregisteredTagIsUnsupported :=
  fun s _ htag => ⟨_, exec_describe_of_unregistered htag s,
    statusError_unsupportedFormat ▸ s.raise_otherFailedFrom .unsupportedFormat⟩

end Sys2Proof.Machine

/-! STRIDE (41_row_stride.md): the properties of the minimum stride, and the three completions of the command. -/

namespace Sys2Proof.Machine

/-! ## `ceilDiv` is Mathlib's ceiling division (00_scope.md R7) -/

theorem ceilDiv_eq_ceilDiv (a b : Nat) : ceilDiv a b = a ⌈/⌉ b := (Nat.ceilDiv_eq_add_pred_div a b).symm

theorem ceilDiv_le_iff {a b c : Nat} (hb : 0 < b) : ceilDiv a b ≤ c ↔ a ≤ b * c := by
  rw [ceilDiv_eq_ceilDiv, ceilDiv_le_iff_le_mul hb]

theorem lt_ceilDiv_iff {a b c : Nat} (hb : 0 < b) : c < ceilDiv a b ↔ b * c < a := by
  rw [← not_le, ceilDiv_le_iff hb, not_le]

theorem ceilDiv_mono {a a' : Nat} (b : Nat) (h : a ≤ a') : ceilDiv a b ≤ ceilDiv a' b :=
  Nat.div_le_div_right (by omega)

theorem ceilDiv_add_right {a b : Nat} (ha : 1 ≤ a) (hb : 0 < b) : ceilDiv (a + b) b = ceilDiv a b + 1 := by
  rw [ceilDiv, ceilDiv, ← Nat.add_div_right _ hb]
  congr 1
  omega

@[simp] theorem ceilDiv_one (a : Nat) : ceilDiv a 1 = a := Nat.div_one a

/-! ## The minimum stride (41_row_stride.md R121) -/

/-- Property 1: whole groups only. -/
theorem minStride_mod_groupBytes (gp gb w : Nat) : minStride gp gb w % gb = 0 := Nat.mul_mod_left _ _

/-- Property 2, below: the whole groups hold the `w` pixels. -/
theorem ceilDiv_le_minStride {gp : Nat} (hgp : 0 < gp) (gb w : Nat) : ceilDiv (w * gb) gp ≤ minStride gp gb w := by
  have hholds : w ≤ gp * ceilDiv w gp := (ceilDiv_le_iff hgp).1 le_rfl
  rw [ceilDiv_le_iff hgp, minStride, ← Nat.mul_assoc]
  exact Nat.mul_le_mul_right gb hholds

/-- Property 2, above: without its last group the stride is too small for the `w` pixels. -/
theorem minStride_lt_ceilDiv_add {gp gb w : Nat} (hgp : 0 < gp) (hgb : 0 < gb) (hw : 1 ≤ w) :
    minStride gp gb w < ceilDiv (w * gb) gp + gb := by
  obtain ⟨q, hq⟩ : ∃ q, ceilDiv w gp = q + 1 := Nat.exists_eq_add_one.2 ((lt_ceilDiv_iff hgp).2 (by omega))
  have hshort : gp * q < w := (lt_ceilDiv_iff hgp).1 (by omega)
  have hbytes : q * gb < ceilDiv (w * gb) gp := by
    rw [lt_ceilDiv_iff hgp, ← Nat.mul_assoc]
    exact Nat.mul_lt_mul_of_pos_right hshort hgb
  rw [minStride, hq, Nat.add_one_mul]
  omega

/-- Property 3: more pixels never need fewer bytes. -/
theorem minStride_mono (gp gb : Nat) {w w' : Nat} (h : w ≤ w') : minStride gp gb w ≤ minStride gp gb w' :=
  Nat.mul_le_mul_right gb (ceilDiv_mono gp h)

/-- Property 3: one group more of pixels needs one group more of bytes. -/
theorem minStride_add_groupPixels {gp w : Nat} (hgp : 0 < gp) (gb : Nat) (hw : 1 ≤ w) :
    minStride gp gb (w + gp) = minStride gp gb w + gb := by
  rw [minStride, ceilDiv_add_right hw hgp, Nat.add_one_mul, minStride]

/-- Property 4: a group of one pixel needs no rounding. -/
theorem minStride_one (gb w : Nat) : minStride 1 gb w = w * gb := by rw [minStride, ceilDiv_one]

/-- A row has at most as many groups as pixels. -/
theorem minStride_le_mul {gp : Nat} (hgp : 0 < gp) (gb w : Nat) : minStride gp gb w ≤ w * gb :=
  Nat.mul_le_mul_right gb ((ceilDiv_le_iff hgp).2 (Nat.le_mul_of_pos_left w hgp))

/-- Property 5, with the OPEN group at its largest. -/
theorem minStride_le_of_registered (tag : Tag) {w : Nat} (hw : w < 2 ^ 31) :
    minStride (descRead tag).groupPixels (descRead tag).groupBytes w ≤ 2 ^ 31 * 255 :=
  (minStride_le_mul (groupPixels_pos tag) _ w).trans (Nat.mul_le_mul hw.le (groupBytes_le tag))

/-- Property 5, for the fixed groups: the twelve-bit formats, nine bytes for two pixels, need the most. -/
theorem minStride_le_of_fixed_group {tag : Tag} (htag : tag ≠ .yuva10_422) {w : Nat} (hw : w < 2 ^ 31) :
    minStride (descRead tag).groupPixels (descRead tag).groupBytes w ≤ 9663676416 := by
  cases tag with
  | yuva10_422 => exact absurd rfl htag
  | rgb8 | argb8 | bgra8 | rgb10 | rgb12Be | rgb12Le | yuv8_422 | yuv10_422 | rgb10xBe | rgb10xLe =>
    simp only [descRead, minStride, ceilDiv]
    omega

/-- Settles O29: R121's properties one by one, at a registered tag's group. -/
theorem minStridePropertiesHold : Obligations.MinStridePropertiesHold := by
  intro tag w hw gp gb
  have hgp : 0 < gp := groupPixels_pos tag
  have hgb : 0 < gb := groupBytes_pos tag
  exact ⟨minStride_mod_groupBytes gp gb w, ⟨ceilDiv_le_minStride hgp gb w, minStride_lt_ceilDiv_add hgp hgb hw⟩,
    fun _ => minStride_mono gp gb, minStride_add_groupPixels hgp gb hw, fun hone => hone ▸ minStride_one gb w,
    fun hlt => ⟨minStride_le_of_registered tag hlt, fun htag => minStride_le_of_fixed_group htag hlt⟩⟩

/-! ## The three completions of STRIDE (41_row_stride.md R122) -/

theorem exec_stride_of_unregistered {n : Nat} (h : 10 < n) (s : State) :
    exec (.stride n) s = .next (s.raise .other .unsupportedFormat) := by
  simp [exec, execStride, tagOfCode_eq_none.2 h]

theorem exec_stride_of_width_nonpos {n : Nat} {tag : Tag} (h : tagOfCode n = some tag) {s : State}
    (hw : s.opWidth ≤ 0) : exec (.stride n) s = .next (s.raise .other .invalidDimension) := by
  simp [exec, execStride, h, hw]

theorem exec_stride_of_width_pos {n : Nat} {tag : Tag} (h : tagOfCode n = some tag) {s : State} (hw : 0 < s.opWidth) :
    exec (.stride n) s = .next ({ s with
      result := BitVec.ofNat 64
        (minStride (descRead tag).groupPixels (descRead tag).groupBytes s.opWidth.toNat) }).completeOk := by
  simp [exec, execStride, h, hw]

/-- No width takes a registered tag's stride out of RESULT (41_row_stride.md R121, property 5). -/
theorem State.toNat_minStride (s : State) (tag : Tag) :
    (BitVec.ofNat 64 (minStride (descRead tag).groupPixels (descRead tag).groupBytes s.opWidth.toNat)).toNat
      = minStride (descRead tag).groupPixels (descRead tag).groupBytes s.opWidth.toNat := by
  rw [BitVec.toNat_ofNat, Nat.mod_eq_of_lt (minStride_lt tag s.opWidth_toNat_lt)]

/-- Settles O28: two of the completions are error completions of a command that is no PACK; the third writes only RESULT
and STATUS. -/
theorem strideWritesTheMinimumStride : Obligations.StrideWritesTheMinimumStride := by
  refine fun s code => ⟨fun hcode => ?_, fun tag htag => ⟨fun hw => ?_, fun hw => ?_⟩⟩
  · exact ⟨_, exec_stride_of_unregistered hcode s,
      statusError_unsupportedFormat ▸ s.raise_otherFailedFrom .unsupportedFormat⟩
  · exact ⟨_, exec_stride_of_width_nonpos htag hw,
      statusError_invalidDimension ▸ s.raise_otherFailedFrom .invalidDimension⟩
  · refine ⟨_, exec_stride_of_width_pos htag hw, s.toNat_minStride tag, statusOk_eq, ?_, rfl, rfl, rfl, ?_⟩
    · simp [State.OperandsKept]
    · simp [State.OutsideKept]

end Sys2Proof.Machine

/-! The Precision Rescaler (42_precision_rescaler.md): the laws of the truncating division, and its boundary values. -/

namespace Sys2Proof.Machine

/-! ## The truncated quotient (42_precision_rescaler.md R130) -/

/-- `rescale` is the floor of the exact quotient: the bounds, the order and the least samples below follow from this. -/
theorem le_rescale_iff {s : Sample} {n v : Nat} : v ≤ rescale s n ↔ v * 65535 ≤ s.toNat * (2 ^ n - 1) :=
  Nat.le_div_iff_mul_le (by decide)

theorem rescale_mul_le (s : Sample) (n : Nat) : rescale s n * 65535 ≤ s.toNat * (2 ^ n - 1) := le_rescale_iff.1 le_rfl

theorem lt_rescale_add_one_mul (s : Sample) (n : Nat) : s.toNat * (2 ^ n - 1) < (rescale s n + 1) * 65535 :=
  not_le.1 fun h => Nat.not_succ_le_self _ (le_rescale_iff.2 h)

/-! ## The exact laws (42_precision_rescaler.md R131, R132) -/

theorem toNat_le_max_sample (s : Sample) : s.toNat ≤ 65535 := Nat.le_of_lt_succ s.isLt

theorem eq_max_sample_iff {s : Sample} : s = 65535 ↔ 65535 ≤ s.toNat := by bv_omega

theorem rescale_mono {s s' : Sample} (n : Nat) (h : s.toNat ≤ s'.toNat) : rescale s n ≤ rescale s' n :=
  le_rescale_iff.2 ((rescale_mul_le s n).trans (Nat.mul_le_mul_right _ h))

@[simp] theorem rescale_zero (n : Nat) : rescale 0 n = 0 := by simp [rescale]

@[simp] theorem rescale_max_sample (n : Nat) : rescale 65535 n = 2 ^ n - 1 := Nat.mul_div_cancel_left _ (by decide)

theorem rescale_le (s : Sample) (n : Nat) : rescale s n ≤ 2 ^ n - 1 :=
  (rescale_mono n (toNat_le_max_sample s)).trans_eq (rescale_max_sample n)

/-- The multiplier is positive at every depth but 0. -/
theorem multiplier_pos {n : Nat} (hn : n ≠ 0) : 0 < 2 ^ n - 1 := Nat.sub_pos_of_lt (Nat.one_lt_two_pow hn)

/-- The least sample that gives a value of at least `v`. -/
theorem le_rescale_iff_ceilDiv_le {s : Sample} {n v : Nat} (hn : n ≠ 0) :
    v ≤ rescale s n ↔ ceilDiv (v * 65535) (2 ^ n - 1) ≤ s.toNat := by
  rw [le_rescale_iff, ceilDiv_le_iff (multiplier_pos hn), Nat.mul_comm s.toNat]

/-- Below 65535 the quotient is below the maximum. -/
theorem rescale_eq_max_iff {s : Sample} {n : Nat} (hn : n ≠ 0) : rescale s n = 2 ^ n - 1 ↔ s = 65535 := by
  rw [← LE.le.ge_iff_eq (rescale_le s n), le_rescale_iff, Nat.mul_comm, Nat.mul_le_mul_right_iff (multiplier_pos hn),
    eq_max_sample_iff]

/-- 65535 is 257 × 255, and 255 is the multiplier at depth 8. -/
theorem rescale_eight (s : Sample) : rescale s 8 = s.toNat / 257 :=
  Nat.mul_div_mul_right s.toNat 257 (by decide : 0 < 255)

/-- Settles O31: the laws one by one; all but the division by 257 hold at every depth but 0. -/
theorem rescaleLaws : Obligations.RescaleLaws := by
  intro n hdepth s
  have hn : n ≠ 0 := by rintro rfl; exact absurd hdepth (by decide)
  exact ⟨rescale_le s n, rescale_eq_max_iff hn, rescale_mul_le s n, lt_rescale_add_one_mul s n,
    fun _ => rescale_mono n, fun heq => heq ▸ rescale_eight s, fun _ => le_rescale_iff_ceilDiv_le hn⟩

/-- Settles O30: the boundary values are those of `rescale_zero` and `rescale_max_sample`. -/
theorem rescaleBoundaryValues : Obligations.RescaleBoundaryValues :=
  ⟨rescale_zero 8, rescale_max_sample 8, rescale_max_sample 10, rescale_max_sample 12⟩

end Sys2Proof.Machine

/-! The Color Space Converter (43_color_converter.md): each output as the clamped floor of its sum, with the normative offsets and
with any; then the two PACK commands of the 4:2:2 formats (44_bit_packer.md R161 to R163, 45_format_dispatcher.md R196, R197). -/

namespace Sys2Proof.Machine

/-! ## The clamp (00_scope.md R7) -/

theorem clamp_of_lt {v lo hi : Int} (h : v < lo) : clamp v lo hi = lo := if_pos h

theorem clamp_of_gt {v lo hi : Int} (hlo : lo ≤ hi) (h : hi < v) : clamp v lo hi = hi := by
  rw [clamp, if_neg (by omega), if_pos h]

theorem clamp_of_mem {v lo hi : Int} (hlo : lo ≤ v) (hhi : v ≤ hi) : clamp v lo hi = v := by
  rw [clamp, if_neg (by omega), if_neg (by omega)]

theorem clamp_le {v lo hi : Int} (h : lo ≤ hi) : clamp v lo hi ≤ hi := by
  unfold clamp
  split_ifs <;> omega

/-! ## One output of the converter (43_color_converter.md R141 to R143) -/

/-- The output of the weighted sum `sum` and the offset `offset`: the three outputs of `rgbToYuv` differ only in these. -/
def yuvOutput (sum offset : Int) : Nat := (clamp (arithShift sum 8 + offset) 0 255).toNat

theorem rgbToYuv_y (o : YuvOffset) (r g b : Nat) :
    (rgbToYuv o r g b).y = yuvOutput (66 * r + 129 * g + 25 * b + 128) o.oy := rfl

theorem rgbToYuv_u (o : YuvOffset) (r g b : Nat) :
    (rgbToYuv o r g b).u = yuvOutput (-38 * r - 74 * g + 112 * b + 128) o.ou := rfl

theorem rgbToYuv_v (o : YuvOffset) (r g b : Nat) :
    (rgbToYuv o r g b).v = yuvOutput (112 * r - 94 * g - 18 * b + 128) o.ov := rfl

theorem yuvOutput_le (sum offset : Int) : yuvOutput sum offset ≤ 255 :=
  Int.toNat_le.2 (clamp_le (by decide))

/-- The shift by 8 is the floor of the quotient by 256, below 0 too (R142). -/
theorem arithShift_eight_eq {sum k : Int} (hlo : 256 * k ≤ sum) (hhi : sum < 256 * k + 256) : arithShift sum 8 = k := by
  unfold arithShift
  omega

/-- With `k` the floor of the sum over 256, the output is `k` plus the offset where that is a byte, and the nearer end of the range
where it is not (R143). -/
theorem yuvOutput_clamps {sum offset k : Int} (hlo : 256 * k ≤ sum) (hhi : sum < 256 * k + 256) :
    (k + offset < 0 → yuvOutput sum offset = 0) ∧ (255 < k + offset → yuvOutput sum offset = 255)
      ∧ (0 ≤ k + offset → k + offset ≤ 255 → (yuvOutput sum offset : Int) = k + offset) := by
  rw [yuvOutput, arithShift_eight_eq hlo hhi]
  refine ⟨fun h => ?_, fun h => ?_, fun hmin hmax => ?_⟩
  · rw [clamp_of_lt h, Int.toNat_zero]
  · rw [clamp_of_gt (by decide) h]; rfl
  · rw [clamp_of_mem hmin hmax, Int.toNat_of_nonneg hmin]

/-- Settles O33: each output is `yuvOutput` of its own sum and offset. -/
theorem yuvMatrixClampsForAnyOffsets : Obligations.YuvMatrixClampsForAnyOffsets := by
  intro o r g b k p hp hlo hhi
  have hout : p.1 = yuvOutput p.2.1 p.2.2 := by
    simp only [List.mem_cons, List.not_mem_nil, or_false] at hp
    rcases hp with rfl | rfl | rfl
    · exact rgbToYuv_y o r g b
    · exact rgbToYuv_u o r g b
    · exact rgbToYuv_v o r g b
  rw [hout]
  exact yuvOutput_clamps hlo hhi

/-! ## The normative offsets (43_color_converter.md R144) -/

theorem yuvOutput_zero_of_neg {sum : Int} (h : sum < 0) : yuvOutput sum 0 = 0 := by
  obtain ⟨hbelow, -, -⟩ := yuvOutput_clamps (sum := sum) (offset := 0) (k := sum / 256) (by omega) (by omega)
  exact hbelow (by omega)

/-- Without an offset, a sum below 65536 gives its floor over 256. -/
theorem yuvOutput_zero_floor {sum : Int} (hmin : 0 ≤ sum) (hmax : sum < 65536) :
    256 * (yuvOutput sum 0 : Int) ≤ sum ∧ sum < 256 * (yuvOutput sum 0 : Int) + 256 := by
  obtain ⟨-, -, hinside⟩ := yuvOutput_clamps (sum := sum) (offset := 0) (k := sum / 256) (by omega) (by omega)
  have hfloor := hinside (by omega) (by omega)
  omega

/-- A sum below `256 * (m + 1)` gives at most `m`, whatever its sign. -/
theorem yuvOutput_zero_le {sum : Int} {m : Nat} (hmax : sum < 256 * (m + 1)) (hm : m ≤ 255) : yuvOutput sum 0 ≤ m := by
  by_cases hneg : sum < 0
  · rw [yuvOutput_zero_of_neg hneg]
    exact m.zero_le
  · obtain ⟨hfloor, -⟩ := yuvOutput_zero_floor (sum := sum) (by omega) (by omega)
    omega

/-- The weights of U and of V sum to 0, so a grey leaves the rounding term alone. -/
theorem rgbToYuv_grey (x : Nat) : (rgbToYuv ⟨0, 0, 0⟩ x x x).u = 0 ∧ (rgbToYuv ⟨0, 0, 0⟩ x x x).v = 0 := by
  constructor
  · rw [rgbToYuv_u]; exact Nat.le_zero.1 (yuvOutput_zero_le (by omega) (by omega))
  · rw [rgbToYuv_v]; exact Nat.le_zero.1 (yuvOutput_zero_le (by omega) (by omega))

/-- Settles O32: luma has a sum from 0 to 56228, and either chroma one of at most 28688. -/
theorem yuvMatrixWithNormativeOffsets : Obligations.YuvMatrixWithNormativeOffsets := by
  intro r g b hr hg hb p su sv
  have hy : p.y = yuvOutput (66 * r + 129 * g + 25 * b + 128) 0 := rgbToYuv_y ⟨0, 0, 0⟩ r g b
  have hu : p.u = yuvOutput su 0 := (rgbToYuv_u ⟨0, 0, 0⟩ r g b).trans (congrArg (yuvOutput · 0) (by omega))
  have hv : p.v = yuvOutput sv 0 := (rgbToYuv_v ⟨0, 0, 0⟩ r g b).trans (congrArg (yuvOutput · 0) (by omega))
  obtain ⟨hylo, hyhi⟩ := yuvOutput_zero_floor (sum := 66 * r + 129 * g + 25 * b + 128) (by omega) (by omega)
  rw [← hy] at hylo hyhi
  refine ⟨by omega, by omega, fun h => hu.trans (yuvOutput_zero_of_neg h), fun h => ?_,
    fun h => hv.trans (yuvOutput_zero_of_neg h), fun h => ?_, by omega, ?_, ?_, ?_⟩
  · rw [hu]; exact yuvOutput_zero_floor h (by omega)
  · rw [hv]; exact yuvOutput_zero_floor h (by omega)
  · rw [hu]; exact yuvOutput_zero_le (by omega) (by decide)
  · rw [hv]; exact yuvOutput_zero_le (by omega) (by decide)
  · rintro rfl rfl; exact rgbToYuv_grey r

/-! ## What a PACK whose checks pass leaves, group by group (45_format_dispatcher.md R187, R189) -/

theorem groupFunction_length {c : Parameters} {tag : Tag} {pg : Slots → List Byte} (h : groupFunction c tag = some pg)
    (sl : Slots) : (pg sl).length = (descRead tag).groupBytes := by
  cases tag <;> cases h <;> rfl

/-- The slots of group `g` of row `y` when the host left SRC alone: a group of `gp` columns, those beyond the row absent
(44_bit_packer.md R151). -/
def State.groupSlots (s : State) (gp y g : Nat) : Slots := fun k _ => s.slotPixel y (gp * g + k)

/-- An implemented PACK whose checks pass, with no hazard, completes OK and leaves in the place of each group the bytes of the
tag's group function. -/
theorem exec_bytesAt_of_packReady {i : Instr} {tag : Tag} (hp : (i, tag) ∈ implementedPacks) {s : State}
    {pg : Slots → List Byte} (hpg : groupFunction s.params tag = some pg)
    (hready : s.PackReady (descRead tag).groupPixels (descRead tag).groupBytes) (hs : s.hazards = .none) :
    ∃ t, exec i s = .next t ∧ t.PackedFrom s (descRead tag).groupPixels (descRead tag).groupBytes
      ∧ ∀ y < s.opHeight.toNat, ∀ g, (descRead tag).groupPixels * g < s.opWidth.toNat →
        t.dst.bytesAt (y * s.opRowStride + (descRead tag).groupBytes * g) (descRead tag).groupBytes =
          pg (s.groupSlots (descRead tag).groupPixels y g) := by
  obtain ⟨t, ht, hpacked⟩ := packCompletesWhateverTheHostDoes (i, tag) hp s hready
  refine ⟨t, ht, hpacked, fun y hy g hg => ?_⟩
  obtain ⟨pg', hpg', hex⟩ := exec_of_packReady hp hready
  cases hpg.symm.trans hpg'
  cases hex.symm.trans ht
  have hlen := groupFunction_length hpg (s.groupSlots (descRead tag).groupPixels y g)
  refine List.ext_getElem (by simp [Memory.bytesAt, hlen]) fun j hj hj' => ?_
  have hread := State.read_packed_completed (pg := pg) (groupBytes_pos tag) (groupPixels_pos tag) hready hs hy hg
    (hlen ▸ hj')
  simp only [Memory.bytesAt, List.getElem_map, List.getElem_range]
  exact hread.trans (List.getD_eq_getElem _ _ hj')

/-- Numbers that fit a byte come back from their bytes. -/
theorem map_toNat_map_byteOf {l : List Nat} (h : ∀ v ∈ l, v ≤ 255) : (l.map byteOf).map BitVec.toNat = l := by
  have hbyte : ∀ v ∈ l, (byteOf v).toNat = v := fun v hv =>
    (byteOf_toNat v).trans (Nat.mod_eq_of_lt (Nat.lt_succ_of_le (h v hv)))
  rw [List.map_map]
  exact (List.map_congr_left hbyte).trans l.map_id

/-- A block of DST within a larger one. -/
theorem Memory.bytesAt_add_eq_take_drop (m : Memory) (a : Nat) {k len n : Nat} (h : k + len ≤ n) :
    m.bytesAt (a + k) len = ((m.bytesAt a n).drop k).take len := by
  refine List.ext_getElem (by simp [Memory.bytesAt]; omega) fun i _ _ => ?_
  simp [Memory.bytesAt, Nat.add_assoc]

/-- Four bytes that are a little-endian word make up the word (00_scope.md R9). -/
theorem Memory.byteAt_sum_of_le32 {m : Memory} {a w : Nat} (h : m.bytesAt a 4 = le32 w) (hw : w < 2 ^ 32) :
    m.byteAt a + m.byteAt (a + 1) * 2 ^ 8 + m.byteAt (a + 2) * 2 ^ 16 + m.byteAt (a + 3) * 2 ^ 24 = w := by
  have hbytes : [m.read a, m.read (a + 1), m.read (a + 2), m.read (a + 3)] = le32 w := h
  simp only [le32, List.cons.injEq, and_true] at hbytes
  obtain ⟨h0, h1, h2, h3⟩ := hbytes
  simp only [Memory.byteAt, h0, h1, h2, h3, byteOf_toNat, bits]
  omega

/-! ## PACK.YUV8_422 (44_bit_packer.md R162) -/

/-- The YUV values of any column, present or absent, are bytes (44_bit_packer.md R152, R161). -/
theorem State.yuvOf_le (s : State) (y x : Nat) :
    (s.yuvOf y x).y ≤ 255 ∧ (s.yuvOf y x).u ≤ 255 ∧ (s.yuvOf y x).v ≤ 255 := by
  unfold State.yuvOf
  split
  · exact ⟨yuvOutput_le _ _, yuvOutput_le _ _, yuvOutput_le _ _⟩
  · exact ⟨Nat.zero_le _, Nat.zero_le _, Nat.zero_le _⟩

theorem packYuv8_422_mem : (.packYuv8_422, .yuv8_422) ∈ implementedPacks := by decide

theorem packGroupYuv8_422_groupSlots (s : State) (y g : Nat) :
    packGroupYuv8_422 s.params (s.groupSlots 2 y g) =
      [(s.yuvOf y (2 * g)).u, (s.yuvOf y (2 * g)).y, (s.yuvOf y (2 * g)).v, (s.yuvOf y (2 * g + 1)).y].map byteOf := by
  unfold packGroupYuv8_422 State.groupSlots
  simp only [lumaAt_slotPixel, chromaUAt_slotPixel, chromaVAt_slotPixel, Nat.add_zero, List.map]

/-- Settles O40: the bytes of a group are its macro-pixel, whose values fit a byte. -/
theorem packYuv8WritesMacroPixels : Obligations.PackYuv8WritesMacroPixels := by
  intro s hready hs
  obtain ⟨t, ht, hpacked, hbytes⟩ := exec_bytesAt_of_packReady packYuv8_422_mem rfl hready hs
  refine ⟨t, ht, hpacked, fun y hy g hg => ?_⟩
  have hgroup := (hbytes y hy g hg).trans (packGroupYuv8_422_groupSlots s y g)
  obtain ⟨hy0, hu0, hv0⟩ := s.yuvOf_le y (2 * g)
  obtain ⟨hy1, -, -⟩ := s.yuvOf_le y (2 * g + 1)
  exact (congrArg _ hgroup).trans (map_toNat_map_byteOf (by simp [hy0, hu0, hv0, hy1]))

/-! ## PACK.YUV10_422 (44_bit_packer.md R163) -/

theorem packYuv10_422_mem : (.packYuv10_422, .yuv10_422) ∈ implementedPacks := by decide

/-- Word `j` of group `g` of row `y`: components `3j` to `3j + 2` of the group's stream. -/
def State.yuv10GroupWord (s : State) (y g j : Nat) : Nat :=
  yuv10Word s.params.yuv10Shift.val ((s.components10 y g).getD (3 * j) 0) ((s.components10 y g).getD (3 * j + 1) 0)
    ((s.components10 y g).getD (3 * j + 2) 0)

theorem packGroupYuv10_422_groupSlots (s : State) (y g : Nat) :
    packGroupYuv10_422 s.params (s.groupSlots 6 y g) = (List.range 4).flatMap fun j => le32 (s.yuv10GroupWord y g j) := by
  unfold packGroupYuv10_422 State.groupSlots
  simp only [lumaAt_slotPixel, chromaUAt_slotPixel, chromaVAt_slotPixel, Nat.add_zero]
  rfl

/-- Word `j` of four little-endian words lies at byte `4j`. -/
theorem take_drop_flatMap_le32 (w : Nat → Nat) {j : Nat} (hj : j < 4) :
    (((List.range 4).flatMap fun i => le32 (w i)).drop (4 * j)).take 4 = le32 (w j) := by
  interval_cases j <;> rfl

theorem State.getD_components10_le (s : State) (y g k : Nat) : (s.components10 y g).getD k 0 ≤ 255 := by
  have hle : ∀ v ∈ s.components10 y g, v ≤ 255 := by simp [State.components10, State.yuvOf_le]
  by_cases hk : k < (s.components10 y g).length
  · rw [List.getD_eq_getElem _ _ hk]
    exact hle _ (List.getElem_mem hk)
  · rw [List.getD_eq_default _ _ (Nat.le_of_not_lt hk)]
    exact Nat.zero_le _

/-- A byte shifted left by at most 2 fits its 10-bit field, so no field of a word overlaps another (R146, 92 D19). -/
theorem yuv10Word_eq_sum (shift : Fin 3) {p q r : Nat} (hp : p ≤ 255) (hq : q ≤ 255) (hr : r ≤ 255) :
    yuv10Word shift.val p q r = p * 2 ^ shift.val + q * 2 ^ shift.val * 2 ^ 10 + r * 2 ^ shift.val * 2 ^ 20
      ∧ yuv10Word shift.val p q r < 2 ^ 32 := by
  have hfield {v : Nat} (hv : v ≤ 255) : v * 2 ^ shift.val ≤ 255 * 2 ^ 2 :=
    Nat.mul_le_mul hv (Nat.pow_le_pow_right (by decide) (Nat.le_of_lt_succ shift.isLt))
  have hpf := hfield hp
  have hqf := hfield hq
  have hrf := hfield hr
  have hsum : yuv10Word shift.val p q r =
      p * 2 ^ shift.val + q * 2 ^ shift.val * 2 ^ 10 + r * 2 ^ shift.val * 2 ^ 20 := by
    simp only [yuv10Word, Nat.shiftLeft_eq _ shift.val]
    rw [or_shiftLeft_eq_add 10 (by omega), or_shiftLeft_eq_add 20 (by omega)]
    omega
  exact ⟨hsum, by omega⟩

/-- Settles O41: the four bytes are word `j` of the group, and the word is the sum of its fields. -/
theorem packYuv10WritesLittleEndianWords : Obligations.PackYuv10WritesLittleEndianWords := by
  intro s hready hs
  obtain ⟨t, ht, hpacked, hbytes⟩ := exec_bytesAt_of_packReady packYuv10_422_mem rfl hready hs
  refine ⟨t, ht, hpacked, fun y hy g hg j hj => ?_⟩
  have hgroup : t.dst.bytesAt (y * s.opRowStride + 16 * g) 16 =
      (List.range 4).flatMap fun j => le32 (s.yuv10GroupWord y g j) :=
    (hbytes y hy g hg).trans (packGroupYuv10_422_groupSlots s y g)
  have hword : t.dst.bytesAt (y * s.opRowStride + 16 * g + 4 * j) 4 = le32 (s.yuv10GroupWord y g j) := by
    rw [Memory.bytesAt_add_eq_take_drop t.dst _ (n := 16) (by omega), hgroup, take_drop_flatMap_le32 _ hj]
  obtain ⟨hsum, hlt⟩ := yuv10Word_eq_sum s.params.yuv10Shift (s.getD_components10_le y g (3 * j))
    (s.getD_components10_le y g (3 * j + 1)) (s.getD_components10_le y g (3 * j + 2))
  exact (Memory.byteAt_sum_of_le32 hword hlt).trans hsum

end Sys2Proof.Machine

/-! The Bit Packer's RGB formats (44_bit_packer.md R153 to R159, 45_format_dispatcher.md R190 to R195): the formats of one
pixel a group, in 8-bit components and in big-endian words of 10-bit fields, then the formats of two pixels a group, whose six
12-bit components lie in pairs of three bytes. -/

namespace Sys2Proof.Machine

/-! ## Groups of one pixel (44_bit_packer.md R151) -/

/-- A column of the row is present. -/
theorem State.slotPixel_of_lt {s : State} {x : Nat} (hx : x < s.opWidth.toNat) (y : Nat) :
    s.slotPixel y x = some (s.pixelAt y x) := if_pos hx

/-- An implemented PACK of one-pixel groups whose checks pass, with no hazard, completes OK and leaves in the place of each
pixel the bytes that the tag's group function gives it. -/
theorem exec_bytesAt_of_onePixel {i : Instr} {tag : Tag} (hp : (i, tag) ∈ implementedPacks) {s : State}
    {pg : Slots → List Byte} (hpg : groupFunction s.params tag = some pg) (hgp : (descRead tag).groupPixels = 1)
    (hone : ∀ sl, pg sl = pg fun _ _ => sl 0 0) (hready : s.PackReady 1 (descRead tag).groupBytes)
    (hs : s.hazards = .none) :
    ∃ t, exec i s = .next t ∧ t.PackedFrom s 1 (descRead tag).groupBytes
      ∧ ∀ y < s.opHeight.toNat, ∀ x < s.opWidth.toNat,
        t.dst.bytesAt (y * s.opRowStride + (descRead tag).groupBytes * x) (descRead tag).groupBytes =
          pg fun _ _ => some (s.pixelAt y x) := by
  obtain ⟨t, ht, hpacked, hbytes⟩ := exec_bytesAt_of_packReady hp hpg (hgp ▸ hready) hs
  rw [hgp] at hpacked hbytes
  refine ⟨t, ht, hpacked, fun y hy x hx => ?_⟩
  have hslot : s.groupSlots 1 y x 0 0 = some (s.pixelAt y x) := by
    rw [State.groupSlots, Nat.one_mul, Nat.add_zero, State.slotPixel_of_lt hx]
  rw [hbytes y hy x (by rwa [Nat.one_mul]), hone, hslot]

/-! ## Three 8-bit components a pixel (44_bit_packer.md R153 to R155) -/

/-- The same for a group function that gives each pixel a list of numbers that fit a byte. -/
theorem exec_bytes_of_onePixel {i : Instr} {tag : Tag} (hp : (i, tag) ∈ implementedPacks) {s : State}
    {pg : Slots → List Byte} (hpg : groupFunction s.params tag = some pg) (hgp : (descRead tag).groupPixels = 1)
    (hone : ∀ sl, pg sl = pg fun _ _ => sl 0 0) {values : Pixel → List Nat}
    (hvalues : ∀ p, pg (fun _ _ => some p) = (values p).map byteOf) (hle : ∀ p, ∀ v ∈ values p, v ≤ 255)
    (hready : s.PackReady 1 (descRead tag).groupBytes) (hs : s.hazards = .none) :
    ∃ t, exec i s = .next t ∧ t.PackedFrom s 1 (descRead tag).groupBytes
      ∧ ∀ y < s.opHeight.toNat, ∀ x < s.opWidth.toNat,
        (t.dst.bytesAt (y * s.opRowStride + (descRead tag).groupBytes * x) (descRead tag).groupBytes).map BitVec.toNat =
          values (s.pixelAt y x) := by
  obtain ⟨t, ht, hpacked, hbytes⟩ := exec_bytesAt_of_onePixel hp hpg hgp hone hready hs
  refine ⟨t, ht, hpacked, fun y hy x hx => ?_⟩
  rw [hbytes y hy x hx, hvalues, map_toNat_map_byteOf (hle _)]

theorem rescale_eight_le (s : Sample) : rescale s 8 ≤ 255 := rescale_le s 8

/-- Settles O34: a group is its one pixel's red, green and blue. -/
theorem packRgb8WritesRedGreenBlue : Obligations.PackRgb8WritesRedGreenBlue := fun _ hready hs =>
  exec_bytes_of_onePixel (tag := .rgb8) (by decide) rfl rfl (fun _ => rfl)
    (values := fun p => [rescale p.r 8, rescale p.g 8, rescale p.b 8]) (fun _ => rfl) (by simp [rescale_eight_le]) hready hs

/-- Settles O35: a group is alpha and its one pixel's red, green and blue. -/
theorem packArgb8WritesAlphaRedGreenBlue : Obligations.PackArgb8WritesAlphaRedGreenBlue := fun _ hready hs =>
  exec_bytes_of_onePixel (tag := .argb8) (by decide) rfl rfl (fun _ => rfl)
    (values := fun p => [255, rescale p.r 8, rescale p.g 8, rescale p.b 8]) (fun _ => rfl) (by simp [rescale_eight_le])
    hready hs

/-- Settles O36: a group is its one pixel's blue, green and red, and alpha. -/
theorem packBgra8WritesBlueGreenRedAlpha : Obligations.PackBgra8WritesBlueGreenRedAlpha := fun _ hready hs =>
  exec_bytes_of_onePixel (tag := .bgra8) (by decide) rfl rfl (fun _ => rfl)
    (values := fun p => [rescale p.b 8, rescale p.g 8, rescale p.r 8, 255]) (fun _ => rfl) (by simp [rescale_eight_le])
    hready hs

/-! ## A big-endian word a pixel (44_bit_packer.md R156) -/

/-- Fields of 10 bits do not overlap, and they leave bits 31:30 zero. -/
theorem rgb10Word_eq_sum {r g b : Nat} (hr : r < 2 ^ 10) (hg : g < 2 ^ 10) (hb : b < 2 ^ 10) :
    rgb10Word r g b = r * 2 ^ 20 + g * 2 ^ 10 + b ∧ rgb10Word r g b < 2 ^ 30 := by
  have hword : rgb10Word r g b = b ||| (g <<< 10) ||| (r <<< 20) := by
    rw [rgb10Word, Nat.or_comm, Nat.or_comm (r <<< 20), ← Nat.or_assoc]
  rw [hword, or_shiftLeft_eq_add 10 hb, or_shiftLeft_eq_add 20 (by omega)]
  omega

/-- Four bytes that are a big-endian word make up the word (00_scope.md R9). -/
theorem Memory.byteAt_sum_of_be32 {m : Memory} {a w : Nat} (h : m.bytesAt a 4 = be32 w) (hw : w < 2 ^ 32) :
    m.byteAt a * 2 ^ 24 + m.byteAt (a + 1) * 2 ^ 16 + m.byteAt (a + 2) * 2 ^ 8 + m.byteAt (a + 3) = w := by
  have hbytes : [m.read a, m.read (a + 1), m.read (a + 2), m.read (a + 3)] = be32 w := h
  simp only [be32, List.cons.injEq, and_true] at hbytes
  obtain ⟨h0, h1, h2, h3⟩ := hbytes
  simp only [Memory.byteAt, h0, h1, h2, h3, byteOf_toNat, bits]
  omega

theorem rescale_lt_two_pow (s : Sample) (n : Nat) : rescale s n < 2 ^ n :=
  Nat.lt_of_le_pred (Nat.two_pow_pos n) (rescale_le s n)

/-- Settles O37: a group is its one pixel's word, and the word is the sum of its fields. -/
theorem packRgb10WritesBigEndianWords : Obligations.PackRgb10WritesBigEndianWords := by
  intro s hready hs
  obtain ⟨t, ht, hpacked, hbytes⟩ :=
    exec_bytesAt_of_onePixel (i := .packRgb10) (tag := .rgb10) (by decide) rfl rfl (fun _ => rfl) hready hs
  refine ⟨t, ht, hpacked, fun y hy x hx => ?_⟩
  obtain ⟨hsum, hlt⟩ := rgb10Word_eq_sum (rescale_lt_two_pow (s.pixelAt y x).r 10)
    (rescale_lt_two_pow (s.pixelAt y x).g 10) (rescale_lt_two_pow (s.pixelAt y x).b 10)
  exact (Memory.byteAt_sum_of_be32 (hbytes y hy x hx) (hlt.trans (by decide))).trans hsum

/-! ## Three bytes a pair of 12-bit components (44_bit_packer.md R157 to R159) -/

/-- The three bytes of a pair, high part first (44_bit_packer.md R158). -/
def pairHighFirst (a b : Nat) : List Nat := [a / 16, a % 16 * 16 + b / 256, b % 256]

/-- The three bytes of a pair, low part first (44_bit_packer.md R159). -/
def pairLowFirst (a b : Nat) : List Nat := [a % 256, b % 16 * 16 + a / 256, b / 16]

theorem pairHighFirst_le {a b : Nat} (ha : a < 2 ^ 12) (hb : b < 2 ^ 12) : ∀ v ∈ pairHighFirst a b, v ≤ 255 := by
  simp only [pairHighFirst, List.forall_mem_cons]
  exact ⟨by omega, by omega, by omega, List.forall_mem_nil _⟩

theorem pairLowFirst_le {a b : Nat} (ha : a < 2 ^ 12) (hb : b < 2 ^ 12) : ∀ v ∈ pairLowFirst a b, v ≤ 255 := by
  simp only [pairLowFirst, List.forall_mem_cons]
  exact ⟨by omega, by omega, by omega, List.forall_mem_nil _⟩

/-- Three pairs, one after another, from a list of six components. -/
def threePairs (pair : Nat → Nat → List Nat) (c : List Nat) : List Nat :=
  (List.range 3).flatMap fun k => pair (c.getD (2 * k) 0) (c.getD (2 * k + 1) 0)

/-- In blocks of `m` values one after another, block `k` begins at value `m * k`. -/
theorem take_drop_flatMap_range {α : Type} {m n k : Nat} (hk : k < n) {f : Nat → List α} (hlen : ∀ j, (f j).length = m) :
    (((List.range n).flatMap f).drop (m * k)).take m = f k := by
  induction k generalizing n f with
  | zero =>
    obtain ⟨n, rfl⟩ := Nat.exists_eq_add_of_lt hk
    rw [Nat.zero_add, List.range_succ_eq_map, List.flatMap_cons, Nat.mul_zero, List.drop_zero, List.take_left' (hlen 0)]
  | succ k ih =>
    obtain ⟨n, rfl⟩ := Nat.exists_eq_add_one_of_ne_zero (Nat.ne_zero_of_lt hk)
    rw [List.range_succ_eq_map, List.flatMap_cons, List.flatMap_map, Nat.mul_succ, Nat.add_comm, ← List.drop_drop,
      List.drop_left' (hlen 0)]
    exact ih (Nat.lt_of_succ_lt_succ hk) fun j => hlen (j + 1)

/-! ## The 72-bit number of a group (44_bit_packer.md R157 to R159) -/

/-- Six 12-bit fields, the first lowest, do not overlap. -/
theorem orFields12_eq_sum {c0 c1 c2 c3 c4 : Nat} (h0 : c0 < 2 ^ 12) (h1 : c1 < 2 ^ 12) (h2 : c2 < 2 ^ 12)
    (h3 : c3 < 2 ^ 12) (h4 : c4 < 2 ^ 12) (c5 : Nat) :
    c0 ||| (c1 <<< 12) ||| (c2 <<< 24) ||| (c3 <<< 36) ||| (c4 <<< 48) ||| (c5 <<< 60) =
      c0 + c1 * 2 ^ 12 + c2 * 2 ^ 24 + c3 * 2 ^ 36 + c4 * 2 ^ 48 + c5 * 2 ^ 60 := by
  rw [or_shiftLeft_eq_add 12 h0, or_shiftLeft_eq_add 24 (by omega), or_shiftLeft_eq_add 36 (by omega),
    or_shiftLeft_eq_add 48 (by omega), or_shiftLeft_eq_add 60 (by omega)]
  omega

theorem or_reverse_six (a b c d e f : Nat) : a ||| b ||| c ||| d ||| e ||| f = f ||| e ||| d ||| c ||| b ||| a := by
  ac_rfl

/-- The components of a group's two slots, in the order of 44_bit_packer.md R157. -/
def Slots.components12 (sl : Slots) : List Nat :=
  [redAt 12 (sl 0 0), greenAt 12 (sl 0 0), blueAt 12 (sl 0 0), redAt 12 (sl 1 0), greenAt 12 (sl 1 0), blueAt 12 (sl 1 0)]

theorem State.components12_groupSlots (s : State) (y g : Nat) : Slots.components12 (s.groupSlots 2 y g) = s.components12 y g :=
  (components12_eq s y g).symm

/-- A component of a slot fits its depth, an absent one too (44_bit_packer.md R152). -/
theorem componentsAt_lt (n : Nat) (o : Option Pixel) : redAt n o < 2 ^ n ∧ greenAt n o < 2 ^ n ∧ blueAt n o < 2 ^ n := by
  cases o with
  | some p => exact ⟨rescale_lt_two_pow p.r n, rescale_lt_two_pow p.g n, rescale_lt_two_pow p.b n⟩
  | none => exact ⟨Nat.two_pow_pos n, Nat.two_pow_pos n, Nat.two_pow_pos n⟩

theorem Slots.getD_components12_lt (sl : Slots) (k : Nat) : (Slots.components12 sl).getD k 0 < 2 ^ 12 := by
  have hlt : ∀ v ∈ Slots.components12 sl, v < 2 ^ 12 := by
    obtain ⟨h0, h1, h2⟩ := componentsAt_lt 12 (sl 0 0)
    obtain ⟨h3, h4, h5⟩ := componentsAt_lt 12 (sl 1 0)
    simp only [Slots.components12, List.forall_mem_cons]
    exact ⟨h0, h1, h2, h3, h4, h5, List.forall_mem_nil _⟩
  by_cases hk : k < (Slots.components12 sl).length
  · rw [List.getD_eq_getElem _ _ hk]
    exact hlt _ (List.getElem_mem hk)
  · rw [List.getD_eq_default _ _ (Nat.le_of_not_lt hk)]
    decide

/-- The bytes of six 12-bit fields with the first on top, most significant byte first, are three pairs, high part first. -/
theorem bits_eq_pairHighFirst {c0 c1 c2 c3 c4 c5 v : Nat} (h0 : c0 < 2 ^ 12) (h1 : c1 < 2 ^ 12) (h2 : c2 < 2 ^ 12)
    (h3 : c3 < 2 ^ 12) (h4 : c4 < 2 ^ 12) (h5 : c5 < 2 ^ 12)
    (hv : v = c5 + c4 * 2 ^ 12 + c3 * 2 ^ 24 + c2 * 2 ^ 36 + c1 * 2 ^ 48 + c0 * 2 ^ 60) :
    [bits v 71 64, bits v 63 56, bits v 55 48, bits v 47 40, bits v 39 32, bits v 31 24, bits v 23 16, bits v 15 8,
      bits v 7 0] = pairHighFirst c0 c1 ++ (pairHighFirst c2 c3 ++ pairHighFirst c4 c5) := by
  simp only [bits, pairHighFirst, List.cons_append, List.nil_append, List.cons.injEq, and_true]
  refine ⟨?_, ?_, ?_, ?_, ?_, ?_, ?_, ?_, ?_⟩ <;> omega

/-- The bytes of six 12-bit fields with the first lowest, least significant byte first, are three pairs, low part first. -/
theorem bits_eq_pairLowFirst {c0 c1 c2 c3 c4 c5 v : Nat} (h0 : c0 < 2 ^ 12) (h1 : c1 < 2 ^ 12) (h2 : c2 < 2 ^ 12)
    (h3 : c3 < 2 ^ 12) (h4 : c4 < 2 ^ 12) (h5 : c5 < 2 ^ 12)
    (hv : v = c0 + c1 * 2 ^ 12 + c2 * 2 ^ 24 + c3 * 2 ^ 36 + c4 * 2 ^ 48 + c5 * 2 ^ 60) :
    [bits v 7 0, bits v 15 8, bits v 23 16, bits v 31 24, bits v 39 32, bits v 47 40, bits v 55 48, bits v 63 56,
      bits v 71 64] = pairLowFirst c0 c1 ++ (pairLowFirst c2 c3 ++ pairLowFirst c4 c5) := by
  simp only [bits, pairLowFirst, List.cons_append, List.nil_append, List.cons.injEq, and_true]
  refine ⟨?_, ?_, ?_, ?_, ?_, ?_, ?_, ?_, ?_⟩ <;> omega

theorem packGroupRgb12Be_eq (sl : Slots) :
    packGroupRgb12Be sl = (threePairs pairHighFirst (Slots.components12 sl)).map byteOf := by
  obtain ⟨h0, h1, h2⟩ := componentsAt_lt 12 (sl 0 0)
  obtain ⟨h3, h4, h5⟩ := componentsAt_lt 12 (sl 1 0)
  have hsum := (or_reverse_six _ _ _ _ _ _).trans (orFields12_eq_sum h5 h4 h3 h2 h1 (redAt 12 (sl 0 0)))
  exact congrArg (List.map byteOf) (bits_eq_pairHighFirst h0 h1 h2 h3 h4 h5 hsum)

theorem packGroupRgb12Le_eq (sl : Slots) :
    packGroupRgb12Le sl = (threePairs pairLowFirst (Slots.components12 sl)).map byteOf := by
  obtain ⟨h0, h1, h2⟩ := componentsAt_lt 12 (sl 0 0)
  obtain ⟨h3, h4, h5⟩ := componentsAt_lt 12 (sl 1 0)
  have hsum := orFields12_eq_sum h0 h1 h2 h3 h4 (blueAt 12 (sl 1 0))
  exact congrArg (List.map byteOf) (bits_eq_pairLowFirst h0 h1 h2 h3 h4 h5 hsum)

/-! ## PACK of the 12-bit formats (45_format_dispatcher.md R194, R195) -/

/-- An implemented PACK whose group function gives three pairs, with its checks passed and no hazard, completes OK and leaves
each pair in its three bytes. -/
theorem exec_bytes_of_threePairs {i : Instr} {tag : Tag} (hp : (i, tag) ∈ implementedPacks) {s : State}
    {pg : Slots → List Byte} (hpg : groupFunction s.params tag = some pg) (hgp : (descRead tag).groupPixels = 2)
    (hgb : (descRead tag).groupBytes = 9) {pair : Nat → Nat → List Nat} (hlen : ∀ a b, (pair a b).length = 3)
    (hle : ∀ {a b}, a < 2 ^ 12 → b < 2 ^ 12 → ∀ v ∈ pair a b, v ≤ 255)
    (hpairs : ∀ sl, pg sl = (threePairs pair (Slots.components12 sl)).map byteOf) (hready : s.PackReady 2 9)
    (hs : s.hazards = .none) :
    ∃ t, exec i s = .next t ∧ t.PackedFrom s 2 9
      ∧ ∀ y < s.opHeight.toNat, ∀ g, 2 * g < s.opWidth.toNat → ∀ k < 3,
        (t.dst.bytesAt (y * s.opRowStride + 9 * g + 3 * k) 3).map BitVec.toNat =
          pair ((s.components12 y g).getD (2 * k) 0) ((s.components12 y g).getD (2 * k + 1) 0) := by
  obtain ⟨t, ht, hpacked, hbytes⟩ := exec_bytesAt_of_packReady hp hpg (by rwa [hgp, hgb]) hs
  rw [hgp, hgb] at hpacked hbytes
  refine ⟨t, ht, hpacked, fun y hy g hg k hk => ?_⟩
  rw [Memory.bytesAt_add_eq_take_drop t.dst _ (n := 9) (by omega), hbytes y hy g hg, hpairs, ← List.map_drop,
    ← List.map_take, threePairs, take_drop_flatMap_range hk fun _ => hlen _ _,
    map_toNat_map_byteOf (hle (Slots.getD_components12_lt _ _) (Slots.getD_components12_lt _ _)),
    State.components12_groupSlots]

/-- Settles O38: the group's bytes are its pairs, high part first. -/
theorem packRgb12BeWritesPairsHighPartFirst : Obligations.PackRgb12BeWritesPairsHighPartFirst := fun _ hready hs =>
  exec_bytes_of_threePairs (tag := .rgb12Be) (by decide) rfl rfl rfl (fun _ _ => rfl) pairHighFirst_le packGroupRgb12Be_eq
    hready hs

/-- Settles O39: the group's bytes are its pairs, low part first. -/
theorem packRgb12LeWritesPairsLowPartFirst : Obligations.PackRgb12LeWritesPairsLowPartFirst := fun _ hready hs =>
  exec_bytes_of_threePairs (tag := .rgb12Le) (by decide) rfl rfl rfl (fun _ _ => rfl) pairLowFirst_le packGroupRgb12Le_eq
    hready hs

end Sys2Proof.Machine

/-! The Format Dispatcher (45_format_dispatcher.md): the error a PACK reports, in the priority of R185; the PACK of an
unregistered tag; and the completion of every running command with a code of R201. -/

namespace Sys2Proof.Machine

/-! ## The first error of the priority (45_format_dispatcher.md R180, R182 to R185) -/

theorem State.packCheck_of_dimensions {s : State} {d : Descriptor} (himpl : d.impl = true)
    (h : s.opWidth ≤ 0 ∨ s.opHeight ≤ 0) : s.packCheck d = some .invalidDimension := by
  simp [State.packCheck, himpl, h]

/-- A stride below the minimum or off the group is the second line (R182). -/
theorem State.packCheck_of_stride {s : State} {d : Descriptor} (himpl : d.impl = true)
    (hw : 0 < s.opWidth) (hh : 0 < s.opHeight)
    (h : ¬ (minStride d.groupPixels d.groupBytes s.opWidth.toNat ≤ s.opRowStride ∧ s.opRowStride % d.groupBytes = 0)) :
    s.packCheck d = some .invalidDimension := by
  rw [not_and_or, not_le] at h
  simp [State.packCheck, himpl, not_le.2 hw, not_le.2 hh, h]

/-- With dimensions and stride in order, what is left of R180 compares DST_LEN and SRC_LEN (R183, R184). -/
theorem State.packCheck_of_layout {s : State} {d : Descriptor} (himpl : d.impl = true)
    (hw : 0 < s.opWidth) (hh : 0 < s.opHeight)
    (h : minStride d.groupPixels d.groupBytes s.opWidth.toNat ≤ s.opRowStride ∧ s.opRowStride % d.groupBytes = 0) :
    s.packCheck d = if s.opDstLen < s.opRowStride * s.opHeight.toNat then some .bufferTooSmall
      else if s.opSrcLen ≠ s.opWidth.toNat * s.opHeight.toNat * 3 then some .sourceSizeMismatch else none := by
  simp [State.packCheck, himpl, not_le.2 hw, not_le.2 hh, not_lt.2 h.1, h.2]

/-- The error the checks find is the one an implemented PACK fails with (R180, 60_exceptions.md R216). -/
theorem exec_packFailedFrom_of_packCheck {p : Instr × Tag} (hp : p ∈ implementedPacks) {s : State} {e : ErrorCode}
    (hcheck : s.packCheck (descRead p.2) = some e) :
    ∃ t, exec p.1 s = .next t ∧ t.PackFailedFrom s (statusError e) := by
  obtain ⟨pg, -, -, hex⟩ := exec_of_implemented hp s
  exact ⟨s.raise .pack e, by rw [hex, State.pack, hcheck], s.raise_packFailedFrom e⟩

/-- Settles O43: each clause fixes what the checks find; positive dimensions are the naturals the checks multiply. -/
theorem packReportsTheFirstErrorOfThePriority : Obligations.PackReportsTheFirstErrorOfThePriority := by
  intro p hp s
  obtain ⟨-, -, himpl, -⟩ := exec_of_implemented hp s
  refine ⟨fun hdim => ?_, fun hw hh hstride => ?_, fun hw hh hstride hdst => ?_, fun hw hh hstride hdst hsrc => ?_⟩
  · exact statusError_invalidDimension ▸ exec_packFailedFrom_of_packCheck hp (State.packCheck_of_dimensions himpl hdim)
  · exact statusError_invalidDimension ▸ exec_packFailedFrom_of_packCheck hp (State.packCheck_of_stride himpl hw hh hstride)
  · rw [← Int.toNat_of_nonneg hh.le] at hdst
    refine statusError_bufferTooSmall ▸ exec_packFailedFrom_of_packCheck hp ?_
    rw [State.packCheck_of_layout himpl hw hh hstride, if_pos (by exact_mod_cast hdst)]
  · rw [← Int.toNat_of_nonneg hh.le] at hdst hsrc
    rw [← Int.toNat_of_nonneg hw.le] at hsrc
    refine statusError_sourceSizeMismatch ▸ exec_packFailedFrom_of_packCheck hp ?_
    rw [State.packCheck_of_layout himpl hw hh hstride, if_neg (not_lt.2 (by exact_mod_cast hdst)),
      if_pos (by exact_mod_cast hsrc)]

/-! ## PACK of an unregistered tag (45_format_dispatcher.md R181, 30_encoding.md R87) -/

theorem State.runCommand_of_unregisteredPack {s : State} (hlo : 0x20B ≤ s.cmd.toNat) (hhi : s.cmd.toNat ≤ 0x2FF) :
    s.runCommand = .next (s.raise .pack .unsupportedFormat) := by
  have hdecode : decode s.cmd = .reject .packUnregisteredTag := by
    rw [decode_pack (by omega) (by omega), decodePack_of_lt (by omega)]
  exact State.runCommand_of_reject (r := .packUnregisteredTag) hdecode

/-- Settles O20: the word fails as a PACK does. -/
theorem packOfUnregisteredTagIsUnsupported : Obligations.PackOfUnregisteredTagIsUnsupported := by
  intro s hbusy hp hlo hhi
  refine ⟨s.raise .pack .unsupportedFormat, ?_, ?_⟩
  · rw [step_of_pending_nil hp, State.converterTurn_of_busy hbusy, State.runCommand_of_unregisteredPack hlo hhi]
  · exact statusError_unsupportedFormat ▸ s.raise_packFailedFrom .unsupportedFormat

/-! ## The code of every completion (45_format_dispatcher.md R188, R201) -/

/-- The flags of a command that completed with one of the codes `codes` (10_state.md R28). -/
def State.CompletedWith (t : State) (codes : List Nat) : Prop :=
  t.busy = false ∧ t.done = true ∧ t.code.toNat ∈ codes ∧ (t.err = true ↔ t.code ≠ 0) ∧ t.status ∈ statusValues

theorem State.completeOk_completedWith (s : State) {codes : List Nat} (h : 0 ∈ codes) :
    s.completeOk.CompletedWith codes := by
  simpa [State.CompletedWith, statusValues] using h

theorem ErrorCode.code_ne_zero (e : ErrorCode) : e.code ≠ 0 := fun h => errorCode_toNat_ne_zero e (by rw [h]; rfl)

theorem State.raise_completedWith (s : State) (k : CommandKind) {e : ErrorCode} {codes : List Nat}
    (h : e.code.toNat ∈ codes) : (s.raise k e).CompletedWith codes :=
  ⟨s.busy_raise k e, s.done_raise k e, by rwa [State.code_raise],
    iff_of_true (s.err_raise k e) (by rw [State.code_raise]; exact e.code_ne_zero), statusError_mem_statusValues e⟩

/-- Every command of the table completes with a code R201 allows for it. -/
theorem exec_completedWith {i : Instr} {s t : State} (h : exec i s = .next t) : t.CompletedWith (mayReport (.instr i)) := by
  rcases exec_cases i s with
      ⟨e, he, hcode⟩ | ⟨tag, n, hn, rfl, -, he⟩ | ⟨tag, n, hn, rfl, -, -, he⟩ | ⟨tag, pg, hp, -, -, he⟩
  · cases he.symm.trans h
    exact s.raise_completedWith _ hcode
  · cases he.symm.trans h
    exact State.completeOk_completedWith _ (by simp [mayReport, hn])
  · cases he.symm.trans h
    exact State.completeOk_completedWith _ (by simp [mayReport, hn])
  · cases he.symm.trans h
    exact State.completeOk_completedWith _ (implementedPacks_isPack_mayReport_ok _ hp).2

theorem Reject.error_mem_mayReport (r : Reject) : (Reject.error r).code.toNat ∈ mayReport (.reject r) := by
  cases r <;> decide

/-- So does a word outside the table (30_encoding.md R87). -/
theorem State.runCommand_completedWith {s t : State} (h : s.runCommand = .next t) :
    t.CompletedWith (mayReport (decode s.cmd)) := by
  cases hd : decode s.cmd with
  | instr i => exact exec_completedWith ((State.runCommand_of_instr hd).symm.trans h)
  | reject r =>
    cases (State.runCommand_of_reject hd).symm.trans h
    exact s.raise_completedWith _ (Reject.error_mem_mayReport r)

/-- Settles O18: the running word has a completion, which keeps the operands and reports a code of the word. -/
theorem everyRunningCommandCompletes : Obligations.EveryRunningCommandCompletes := by
  intro s hbusy hp
  obtain ⟨t, hrun, hkeeps, houtside⟩ := s.runCommand_keeps
  obtain ⟨hidle, hdone, hcode, herr, hstatus⟩ := State.runCommand_completedWith hrun
  have hstep : step s = .next t := by rw [step_of_pending_nil hp, State.converterTurn_of_busy hbusy, hrun]
  exact ⟨t, hstep, hidle, hdone, hcode, herr, hstatus, hkeeps, houtside⟩

end Sys2Proof.Machine

/-! An error completion (60_exceptions.md R216): as which kind of command a word fails, and what the failure leaves. -/

namespace Sys2Proof.Machine

/-! ## The kind of command a word fails as -/

/-- The kind of command R216 asks for, of what CMD decodes to. -/
def Decoded.kind : Decoded → CommandKind
  | .instr i => if isPackInstr i then .pack else .other
  | .reject r => Reject.kind r

/-- Every word of the PACK operation fails as a PACK, its tag registered or not (30_encoding.md R82, R87). -/
theorem decodePack_kind (tag : Nat) : Decoded.kind (decodePack tag) = .pack := by
  unfold decodePack
  split <;> rfl

/-- R216's two conditions, read on the number the word is. -/
theorem isPackWord_iff {c : Word} : isPackWord c = true ↔ c.toNat / 2 ^ 10 = 0 ∧ c.toNat / 2 ^ 8 % 4 = 2 := by
  rw [isPackWord, Bool.and_eq_true, beq_iff_eq, beq_iff_eq, ← BitVec.toNat_inj, ← BitVec.toNat_inj, zeroField_toNat,
    opField_toNat]
  rfl

/-- The word's fields OP and ZERO alone decide the kind, in each range of 30_encoding.md R85. -/
theorem decode_kind (c : Word) : Decoded.kind (decode c) = if isPackWord c = true then .pack else .other := by
  by_cases hpack : isPackWord c = true
  · have hfields := isPackWord_iff.1 hpack
    rw [if_pos hpack, decode_pack (by omega) (by omega), decodePack_kind]
  · have hfields := mt isPackWord_iff.2 hpack
    rw [if_neg hpack]
    by_cases hdescribe : c.toNat < 0x100
    · rw [decode_describe hdescribe]; rfl
    by_cases hstride : c.toNat < 0x200
    · rw [decode_stride (by omega) hstride]; rfl
    by_cases hop : c.toNat < 0x400
    · rw [decode_reservedOperation (by omega) hop]; rfl
    · rw [decode_reservedBits (by omega)]; rfl

/-! ## The one way to complete with ERR = 1 -/

theorem exec_eq_raise_of_err {i : Instr} {s t : State} (h : exec i s = .next t) (herr : t.err = true) :
    ∃ e, t = s.raise (Decoded.kind (.instr i)) e := by
  rcases exec_cases i s with ⟨e, he, -⟩ | ⟨tag, n, -, -, -, he⟩ | ⟨tag, n, -, -, -, -, he⟩ | ⟨tag, pg, -, -, -, he⟩
  · cases he.symm.trans h
    exact ⟨e, rfl⟩
  all_goals
    cases he.symm.trans h
    simp at herr

/-- The same of the word in CMD, in the opcode table or not: it fails by `raise`, as the kind its fields give. -/
theorem State.runCommand_eq_raise_of_err {s t : State} (h : s.runCommand = .next t) (herr : t.err = true) :
    ∃ e, t = s.raise (if isPackWord s.cmd = true then .pack else .other) e := by
  rw [← decode_kind]
  cases hd : decode s.cmd with
  | instr i => exact exec_eq_raise_of_err ((State.runCommand_of_instr hd).symm.trans h) herr
  | reject r =>
    cases (State.runCommand_of_reject hd).symm.trans h
    exact ⟨_, rfl⟩

/-! ## STATUS after an error (60_exceptions.md R210, R216) -/

theorem ErrorCode.code_range (e : ErrorCode) : 1 ≤ e.code.toNat ∧ e.code.toNat ≤ 5 := by
  cases e <;> decide

theorem statusError_toNat (e : ErrorCode) : (statusError e).toNat = 0x06 ||| (e.code.toNat <<< 4) := by
  cases e <;> decide

/-- Settles O22: the completion is `raise` as the kind the word's fields give, so only a PACK can lose DST, below DST_LEN. -/
theorem errorCompletionKeepsEverythingElse : Obligations.ErrorCompletionKeepsEverythingElse := by
  intro s t hrun herr
  obtain ⟨e, rfl⟩ := State.runCommand_eq_raise_of_err hrun herr
  obtain ⟨hpos, hle⟩ := e.code_range
  refine ⟨s.busy_raise _ e, s.done_raise _ e, ?_, ?_, ?_, (s.raise_keeps _ e).1, ⟨rfl, rfl, rfl⟩,
    fun _ _ => State.read_dstAfterFailure _, fun hother => ?_⟩
  · rwa [State.code_raise]
  · rwa [State.code_raise]
  · rw [State.code_raise, State.raise_status, statusError_toNat]
  · rw [if_neg (mt isPackWord_iff.1 hother), State.raise_dst]
    rfl

end Sys2Proof.Machine

/-! Hazards (70_reset_and_hazards.md R246 to R252): what the host may do while a command runs, and what that changes in the state
the command ends in. -/

namespace Sys2Proof.Machine

/-! ## A register write while BUSY = 1 (R250) -/

/-- Settles O10, by what stands at the offset: a register, a hole, or the inside of a register. -/
theorem registerWriteWhileBusyIsIgnored : Obligations.RegisterWriteWhileBusyIsIgnored := by
  intro s offset v rest hbusy hp
  rw [step_writeReg hp]
  cases hslot : regSlot offset with
  | reg r => exact ⟨fun _ => State.hostWriteReg_of_busy (s := { s with pending := rest }) hslot hbusy v, nofun⟩
  | hole => exact ⟨fun _ => State.hostWriteReg_of_hole hslot v, nofun⟩
  | inside => exact ⟨fun hne => absurd rfl hne, fun _ => State.hostWriteReg_of_inside hslot v⟩

/-! ## The running command's end, from two states -/

/-- What decides how the running command ends is the same: CMD, the operand registers and the parameters (R250). -/
structure State.SameCommand (s u : State) : Prop where
  cmd : u.cmd = s.cmd
  width : u.width = s.width
  height : u.height = s.height
  rowStride : u.rowStride = s.rowStride
  srcLen : u.srcLen = s.srcLen
  dstLen : u.dstLen = s.dstLen
  params : u.params = s.params

/-- `exec_together` for the word in CMD, in the opcode table or not: from both states the command ends in the same way. -/
theorem State.SameCommand.commandEnd {s u : State} (h : s.SameCommand u) :
    (∃ e k, s.commandEnd = s.raise k e ∧ u.commandEnd = u.raise k e)
      ∨ (∃ d n, s.commandEnd = ({ s with desc := d, descName := n }).completeOk
        ∧ u.commandEnd = ({ u with desc := d, descName := n }).completeOk)
      ∨ (∃ r, s.commandEnd = ({ s with result := r }).completeOk ∧ u.commandEnd = ({ u with result := r }).completeOk)
      ∨ (∃ tag pg, s.PackReady (descRead tag).groupPixels (descRead tag).groupBytes
        ∧ u.PackReady (descRead tag).groupPixels (descRead tag).groupBytes
        ∧ s.commandEnd = (s.packed (descRead tag) pg).completeOk
        ∧ u.commandEnd = (u.packed (descRead tag) pg).completeOk) := by
  cases hd : decode s.cmd with
  | reject r =>
    have hd' : decode u.cmd = .reject r := by rw [h.cmd, hd]
    exact .inl ⟨_, _, State.commandEnd_of_reject hd, State.commandEnd_of_reject hd'⟩
  | instr i =>
    have hd' : decode u.cmd = .instr i := by rw [h.cmd, hd]
    have hend {t t' : State} (ht : exec i s = .next t) (ht' : exec i u = .next t') :
        s.commandEnd = t ∧ u.commandEnd = t' :=
      ⟨State.commandEnd_of_instr hd ht, State.commandEnd_of_instr hd' ht'⟩
    rcases exec_together i h.width h.height h.rowStride h.srcLen h.dstLen h.params with
        ⟨e, k, he, he'⟩ | ⟨tag, -, he, he'⟩ | ⟨r, -, he, he'⟩ | ⟨tag, pg, -, -, hready, hready', he, he'⟩
    · exact .inl ⟨e, k, hend he he'⟩
    · exact .inr (.inl ⟨_, _, hend he he'⟩)
    · exact .inr (.inr (.inl ⟨r, hend he he'⟩))
    · exact .inr (.inr (.inr ⟨tag, pg, hready, hready', hend he he'⟩))

theorem State.SameCommand.commandEnd_status {s u : State} (h : s.SameCommand u) :
    u.commandEnd.status = s.commandEnd.status := by
  rcases h.commandEnd with ⟨e, k, hs, hu⟩ | ⟨d, n, hs, hu⟩ | ⟨r, hs, hu⟩ | ⟨tag, pg, -, -, hs, hu⟩ <;> rw [hs, hu] <;> rfl

/-- A result register that holds its old value, or already the one of the command's end, ends up with the same value (R249): the
command overwrites it, or its end is its old value. -/
theorem State.SameCommand.commandEnd_results {s u : State} (h : s.SameCommand u) :
    (u.result = s.result ∨ u.result = s.commandEnd.result → u.commandEnd.result = s.commandEnd.result)
      ∧ (u.desc = s.desc ∨ u.desc = s.commandEnd.desc → u.commandEnd.desc = s.commandEnd.desc)
      ∧ (u.descName = s.descName ∨ u.descName = s.commandEnd.descName →
        u.commandEnd.descName = s.commandEnd.descName) := by
  rcases h.commandEnd with ⟨e, k, hs, hu⟩ | ⟨d, n, hs, hu⟩ | ⟨r, hs, hu⟩ | ⟨tag, pg, -, -, hs, hu⟩ <;>
    simp [hs, hu, State.packed]

theorem State.SameCommand.commandEnd_resultsKept {s u : State} (h : s.SameCommand u) (hkept : s.ResultsKept u) :
    s.commandEnd.ResultsKept u.commandEnd := by
  obtain ⟨hresult, hdesc, hname⟩ := hkept
  obtain ⟨hr, hd, hn⟩ := h.commandEnd_results
  exact ⟨hr (.inl hresult), hd (.inl hdesc), hn (.inl hname)⟩

theorem State.SameCommand.inWriteSet {s u : State} (h : s.SameCommand u) (d : Descriptor) (b : Nat) :
    u.inWriteSet d b = s.inWriteSet d b := by
  rw [State.inWriteSet, State.opRowStride, State.opHeight, State.opWidth, h.rowStride, h.height, h.width]
  rfl

/-- The command's end has the same byte at `b`, when DST has the same byte there, the host wrote there in both states or in
neither, and the packer gives the same byte there. -/
theorem State.SameCommand.read_commandEnd {s u : State} (h : s.SameCommand u) (htick : u.tick = s.tick) {b : Nat}
    (hdst : u.dst.read b = s.dst.read b) (htouched : b ∈ u.hazards.touched ↔ b ∈ s.hazards.touched)
    (hbyte : ∀ d pg, u.packedByte d pg b = s.packedByte d pg b) :
    u.commandEnd.dst.read b = s.commandEnd.dst.read b := by
  rcases h.commandEnd with ⟨e, k, hs, hu⟩ | ⟨d, n, hs, hu⟩ | ⟨r, hs, hu⟩ | ⟨tag, pg, hready, hready', hs, hu⟩
  · rw [hs, hu]
    cases k with
    | other => exact hdst
    | pack => simp only [State.raise_dst, State.dstAfterFailure_pack, Memory.read_lose, State.opDstLen, h.dstLen, htick, hdst]
  · rw [hs, hu]
    exact hdst
  · rw [hs, hu]
    exact hdst
  · rw [hs, hu, State.completeOk_dst, State.completeOk_dst,
      State.read_packed (groupBytes_pos tag) (groupPixels_pos tag) hready',
      State.read_packed (groupBytes_pos tag) (groupPixels_pos tag) hready]
    simp only [h.inWriteSet, htouched, htick, hbyte, hdst]

/-- The result registers, the events to come and the model's own counters do not decide how the command ends. -/
theorem State.sameCommand_results (s : State) (r : BitVec 64) (d : Word) (n : BitVec 128) (l : List Event) (v : BitVec 128)
    (k : Nat) :
    s.SameCommand { s with result := r, desc := d, descName := n, pending := l, readData := v, tick := k } :=
  ⟨rfl, rfl, rfl, rfl, rfl, rfl, rfl⟩

/-- The events to come do not change what the command leaves in the result registers. -/
theorem State.commandEnd_resultsKept_pending (s : State) (l : List Event) :
    s.commandEnd.ResultsKept (State.commandEnd { s with pending := l }) :=
  (s.sameCommand_results ..).commandEnd_resultsKept ⟨rfl, rfl, rfl⟩

/-! ## A read of a result register while BUSY = 1 (R249) -/

theorem step_readReg_offset {s : State} {rest : List Event} (r : Reg) (hp : s.pending = .host (.readReg r.offset) :: rest) :
    step s = .next { ({ s with pending := rest }).earlyResult r with
      readData := (({ s with pending := rest }).earlyResult r).regValue r } := by
  simp [step_readReg hp, State.hostReadReg, regSlot_offset]

/-- The step that takes a read of RESULT while a command runs: RESULT and the value read are the old or the new value. -/
theorem step_readResult_of_busy {s : State} {rest : List Event} (hbusy : s.busy = true)
    (hp : s.pending = .host (.readReg Reg.result.offset) :: rest) : ∃ v, (v = s.result ∨ v = s.commandEnd.result)
      ∧ step s = .next { s with pending := rest, result := v, readData := v.setWidth 128, tick := s.tick + 1 } := by
  obtain ⟨hend, -, -⟩ := s.commandEnd_resultsKept_pending rest
  refine ⟨if Config.freeEarly s.tick then s.commandEnd.result else s.result, (ite_eq_or_eq ..).symm, ?_⟩
  simp [step_readReg_offset .result hp, State.earlyResult, State.regValue, hbusy, hend]

theorem step_readDesc_of_busy {s : State} {rest : List Event} (hbusy : s.busy = true)
    (hp : s.pending = .host (.readReg Reg.desc.offset) :: rest) : ∃ v, (v = s.desc ∨ v = s.commandEnd.desc)
      ∧ step s = .next { s with pending := rest, desc := v, readData := v.setWidth 128, tick := s.tick + 1 } := by
  obtain ⟨-, hend, -⟩ := s.commandEnd_resultsKept_pending rest
  refine ⟨if Config.freeEarly s.tick then s.commandEnd.desc else s.desc, (ite_eq_or_eq ..).symm, ?_⟩
  simp [step_readReg_offset .desc hp, State.earlyResult, State.regValue, hbusy, hend]

theorem step_readDescName_of_busy {s : State} {rest : List Event} (hbusy : s.busy = true)
    (hp : s.pending = .host (.readReg Reg.descName.offset) :: rest) : ∃ v, (v = s.descName ∨ v = s.commandEnd.descName)
      ∧ step s = .next { s with pending := rest, descName := v, readData := v, tick := s.tick + 1 } := by
  obtain ⟨-, -, hend⟩ := s.commandEnd_resultsKept_pending rest
  refine ⟨if Config.freeEarly s.tick then s.commandEnd.descName else s.descName, (ite_eq_or_eq ..).symm, ?_⟩
  simp [step_readReg_offset .descName hp, State.earlyResult, State.regValue, hbusy, hend]

/-- Settles O14: the register takes the old or the new value, and by `State.SameCommand.commandEnd_results` ends up with the same. -/
theorem resultReadWhileBusyIsOldOrNew : Obligations.ResultReadWhileBusyIsOldOrNew := by
  intro s rest hbusy
  have hkept : s.OperandsKept s := ⟨rfl, rfl, rfl, rfl, rfl, rfl, rfl, rfl⟩
  refine ⟨fun hp => ?_, fun hp => ?_, fun hp => ?_⟩
  · obtain ⟨v, hv, hstep⟩ := step_readResult_of_busy hbusy hp
    exact ⟨_, hstep, rfl, hv, rfl, rfl, hkept, rfl, rfl, (s.sameCommand_results ..).commandEnd_results.1 hv⟩
  · obtain ⟨v, hv, hstep⟩ := step_readDesc_of_busy hbusy hp
    exact ⟨_, hstep, rfl, hv, rfl, rfl, hkept, rfl, rfl, (s.sameCommand_results ..).commandEnd_results.2.1 hv⟩
  · obtain ⟨v, hv, hstep⟩ := step_readDescName_of_busy hbusy hp
    exact ⟨_, hstep, rfl, hv, rfl, rfl, hkept, rfl, rfl, (s.sameCommand_results ..).commandEnd_results.2.2 hv⟩

/-! ## No hazard without a breach of the host's duties (R246, R247, R250, R252) -/

/-- Every completion forgets the hazards (10_state.md R34). -/
theorem State.commandEnd_hazards (s : State) : s.commandEnd.hazards = .none := by
  have hsame : s.SameCommand s := ⟨rfl, rfl, rfl, rfl, rfl, rfl, rfl⟩
  rcases hsame.commandEnd with ⟨e, k, hs, -⟩ | ⟨d, n, hs, -⟩ | ⟨r, hs, -⟩ | ⟨tag, pg, -, -, hs, -⟩ <;> rw [hs] <;> rfl

theorem State.runCommand_hazards {s t : State} (h : s.runCommand = .next t) : t.hazards = .none := by
  cases s.runCommand_eq_commandEnd.symm.trans h
  exact s.commandEnd_hazards

theorem State.converterTurn_hazards {s t : State} (hs : s.hazards = .none) (h : s.converterTurn = .next t) :
    t.hazards = .none := by
  cases hb : s.busy with
  | true => exact State.runCommand_hazards ((State.converterTurn_of_busy hb).symm.trans h)
  | false => cases (State.converterTurn_of_idle hb).symm.trans h; exact hs

theorem State.hostWriteReg_hazards {s t : State} {offset : Nat} {v : BitVec 128} (hs : s.hazards = .none)
    (h : s.hostWriteReg offset v = .next t) : t.hazards = .none := by
  rcases State.hostWriteReg_cases h with rfl | ⟨-, r, rfl⟩
  · exact hs
  · cases r with
    | cmd => rfl
    | status | width | height | rowStride | srcLen | dstLen | result | desc | descName => exact hs

@[simp] theorem State.earlyResult_hazards (s : State) (r : Reg) : (s.earlyResult r).hazards = s.hazards := by
  unfold State.earlyResult
  split
  · cases r <;> rfl
  · rfl

theorem State.hostReadReg_hazards {s t : State} {offset : Nat} (h : s.hostReadReg offset = .next t) :
    t.hazards = s.hazards := by
  unfold State.hostReadReg at h
  split at h <;> cases h
  · rfl
  · exact s.earlyResult_hazards _

theorem State.hostPoll_hazards {s t : State} (hs : s.hazards = .none) (h : s.hostPoll = .next t) : t.hazards = .none := by
  unfold State.hostPoll at h
  split at h
  · exact State.runCommand_hazards h
  · split at h <;> cases h <;> exact hs

/-- An action that keeps the duties makes no hazard: a write to SRC or DST does so only while BUSY = 1. -/
theorem State.hostAct_hazards {s t : State} {a : HostAction} {rest : List Event}
    (hduty : State.hostKeepsDuties { s with pending := .host a :: rest } = true) (hs : s.hazards = .none)
    (h : s.hostAct a = .next t) : t.hazards = .none := by
  cases a with
  | writeReg offset value => exact State.hostWriteReg_hazards hs h
  | readReg offset => exact (State.hostReadReg_hazards h).trans hs
  | writeSrc i v =>
    have hidle : s.busy = false := by simpa [State.hostKeepsDuties] using hduty
    cases h
    rw [State.hostWriteSrc_of_idle hidle]
    exact hs
  | readSrc i => cases h; exact hs
  | writeDst a v =>
    have hidle : s.busy = false := by simpa [State.hostKeepsDuties] using hduty
    cases h
    rw [State.hostWriteDst_of_idle hidle]
    exact hs
  | readDst a => cases h; exact (s.hostReadDst_hazards a).trans hs
  | pollDone => exact State.hostPoll_hazards hs h
  | writeBack offset factor => exact State.hostWriteReg_hazards hs h
  | skipOnError count => cases h; exact hs

/-- Settles O47, by cases on the event the step takes. -/
theorem hostKeepingItsDutiesMakesNoHazard : Obligations.HostKeepingItsDutiesMakesNoHazard := by
  intro s t hduty hs h
  cases hp : s.pending with
  | nil => exact State.converterTurn_hazards hs ((step_of_pending_nil hp).symm.trans h)
  | cons e rest =>
    have hevent : State.takeEvent { s with pending := rest } e = .next t := (step_of_pending_cons hp).symm.trans h
    cases e with
    | host a => exact State.hostAct_hazards (s := { s with pending := rest }) (by rwa [← hp]) hs hevent
    | converter => exact State.converterTurn_hazards (s := { s with pending := rest }) hs hevent
    | reset => cases hevent; rfl

/-! ## A write to SRC while BUSY = 1 (R247) -/

/-- A use of a sample gives the present value or one listed for it. -/
theorem State.useSample_present_or_stale (s : State) (a use i : Nat) :
    s.useSample a use i = s.src.read i ∨ (i, s.useSample a use i) ∈ s.hazards.stale := by
  unfold State.useSample
  split
  · exact .inl rfl
  · cases hget : ((s.hazards.stale.filter fun c => c.1 == i).map fun c => c.2)[Config.freeUse s.tick a use i %
        ((s.hazards.stale.filter fun c => c.1 == i).length + 1)]? with
    | none => exact .inl rfl
    | some v =>
      obtain ⟨c, hc, rfl⟩ := List.mem_map.1 (List.mem_of_getElem? hget)
      obtain ⟨hmem, hi⟩ := List.mem_filter.1 hc
      rw [← eq_of_beq hi]
      exact .inr hmem

theorem State.hostWriteSrc_of_busy {s : State} (hbusy : s.busy = true) (i : Nat) (v : Sample) : s.hostWriteSrc i v =
    { s with src := s.src.write i v, hazards := { s.hazards with stale := (i, s.src.read i) :: s.hazards.stale } } := by
  simp [State.hostWriteSrc, hbusy]

/-- A write to one sample leaves the uses of every other sample as they were. -/
theorem State.useSample_hostWriteSrc_of_ne {s : State} (hbusy : s.busy = true) {i j : Nat} (hne : j ≠ i) (v : Sample)
    (a use : Nat) : (s.hostWriteSrc i v).useSample a use j = s.useSample a use j := by
  simp [State.hostWriteSrc_of_busy hbusy, State.useSample, Ne.symm hne]

/-- Settles O48: one value more is listed, for the sample written. -/
theorem useOfChangedSampleSeesOldOrNew : Obligations.UseOfChangedSampleSeesOldOrNew := by
  refine fun s => ⟨s.useSample_present_or_stale, fun i v rest hp hbusy => ?_⟩
  have hread : (State.hostWriteSrc { s with pending := rest } i v).src.read i = v := by simp
  have hlisted : ∀ c ∈ (State.hostWriteSrc { s with pending := rest } i v).hazards.stale,
      c = (i, s.src.read i) ∨ c ∈ s.hazards.stale := by
    rw [State.hostWriteSrc_of_busy (s := { s with pending := rest }) hbusy]
    exact fun c => List.mem_cons.1
  refine ⟨_, step_of_pending_cons hp, hbusy, hread, hlisted, fun hs a use => ?_, fun a use j hne => ?_⟩
  · have hnone : s.hazards.stale = [] := by rw [hs]; rfl
    rcases State.useSample_present_or_stale (State.hostWriteSrc { s with pending := rest } i v) a use i with huse | huse
    · exact .inr (huse.trans hread)
    · rcases hlisted _ huse with hold | hstale
      · exact .inl (congrArg Prod.snd hold)
      · exact absurd hstale (List.eq_nil_iff_forall_not_mem.1 hnone _)
  · exact State.useSample_hostWriteSrc_of_ne (s := { s with pending := rest }) hbusy hne v a use

/-- The samples of the pixels of row `y` are those with `i / (3 * w) = y` (R51). -/
theorem sampleIndex_div {w y x c : Nat} (hx : x < w) (hc : c < 3) : sampleIndex w y x c / (3 * w) = y := by
  have hsum : sampleIndex w y x c = x * 3 + c + 3 * w * y := by rw [sampleIndex]; ring
  rw [hsum, Nat.add_mul_div_left _ _ (by omega), Nat.div_eq_of_lt (by omega), Nat.zero_add]

/-- A byte outside the row of the sample written has no pixel that uses it (45_format_dispatcher.md R187). -/
theorem State.packedByte_hostWriteSrc_of_other_row {s : State} (hbusy : s.busy = true) {i b : Nat}
    (hrow : b / s.opRowStride ≠ i / (3 * s.opWidth.toNat)) (v : Sample) (d : Descriptor) (pg : Slots → List Byte) :
    (s.hostWriteSrc i v).packedByte d pg b = s.packedByte d pg b := by
  have hslots (g : Nat) : (s.hostWriteSrc i v).slots d.groupPixels (b / s.opRowStride) g b
      = s.slots d.groupPixels (b / s.opRowStride) g b := by
    funext k use
    have hwidth : (s.hostWriteSrc i v).opWidth = s.opWidth := rfl
    simp only [State.slots, hwidth]
    split
    · next hx =>
      have huse (c : Nat) (hc : c < 3) := State.useSample_hostWriteSrc_of_ne hbusy (i := i)
        (j := sampleIndex s.opWidth.toNat (b / s.opRowStride) (g * d.groupPixels + k) c)
        (fun heq => hrow (by rw [← heq, sampleIndex_div hx hc])) v b use
      simp only [huse 0 (by decide), huse 1 (by decide), huse 2 (by decide)]
    · rfl
  exact congrArg (fun sl => (pg sl).getD (b % s.opRowStride % d.groupBytes) 0) (hslots _)

/-- Settles O49: outside the row of the sample the packer's bytes are as before, and so is all else that the end depends on. -/
theorem srcWriteWhileBusyTouchesOneRow : Obligations.SrcWriteWhileBusyTouchesOneRow := by
  intro s i v rest hbusy hp
  have hsame : s.SameCommand (State.hostWriteSrc { s with pending := rest } i v) := ⟨rfl, rfl, rfl, rfl, rfl, rfl, rfl⟩
  refine ⟨_, step_of_pending_cons hp, rfl, fun j => ?_, hsame.commandEnd_status,
    hsame.commandEnd_resultsKept ⟨rfl, rfl, rfl⟩, fun b hrow => hsame.read_commandEnd rfl rfl ?_ ?_⟩
  · exact (Samples.read_write s.src i j v).trans (if_congr eq_comm rfl rfl)
  · rw [State.hostWriteSrc_of_busy (s := { s with pending := rest }) hbusy]
  · exact State.packedByte_hostWriteSrc_of_other_row (s := { s with pending := rest }) hbusy hrow v

/-! ## Accesses to DST while BUSY = 1 (R246) -/

theorem State.hostWriteDst_of_busy {s : State} (hbusy : s.busy = true) (a : Nat) (v : Byte) : s.hostWriteDst a v =
    { s with dst := s.dst.write a v, hazards := { s.hazards with touched := a :: s.hazards.touched } } := by
  simp [State.hostWriteDst, hbusy]

theorem State.hostReadDst_of_busy {s : State} (hbusy : s.busy = true) (a : Nat) : s.hostReadDst a =
    { s with readData := (Config.freeByte s.tick a).setWidth 128, tick := s.tick + 1 } := by
  simp [State.hostReadDst, hbusy]

/-- Settles O50: the packer does not read DST, and only the byte written is remembered. -/
theorem dstWriteWhileBusyTouchesOneByte : Obligations.DstWriteWhileBusyTouchesOneByte := by
  intro s a v rest hbusy
  refine ⟨fun hp => ?_, fun hp => ⟨_, _, (step_of_pending_cons hp).trans
    (congrArg _ (State.hostReadDst_of_busy (s := { s with pending := rest }) hbusy a))⟩⟩
  have hsame : s.SameCommand (State.hostWriteDst { s with pending := rest } a v) := ⟨rfl, rfl, rfl, rfl, rfl, rfl, rfl⟩
  have hread (b : Nat) : (s.dst.write a v).read b = if b = a then v else s.dst.read b :=
    (Memory.read_write s.dst a b v).trans (if_congr eq_comm rfl rfl)
  refine ⟨_, step_of_pending_cons hp, rfl, hread, hsame.commandEnd_status,
    hsame.commandEnd_resultsKept ⟨rfl, rfl, rfl⟩, fun b hne => hsame.read_commandEnd rfl ?_ ?_ ?_⟩
  · exact (hread b).trans (if_neg hne)
  · rw [State.hostWriteDst_of_busy (s := { s with pending := rest }) hbusy]
    exact List.mem_cons.trans (or_iff_right hne)
  · rw [State.hostWriteDst_of_busy (s := { s with pending := rest }) hbusy]
    exact fun _ _ => rfl

end Sys2Proof.Machine
